-- ==== Sys2Proof/Word.lean ====
section
/-! DEFINITION. The plain data the whole model is written over: bytes, the two segments, short addresses,
group numbers, six-byte identities, tags, characters on a line and the two kinds of lease. -/

namespace Sys2Proof

/-- One byte, as it stands in a station frame or an SPI exchange. -/
abbrev Byte := BitVec 8

/-- The two bus segments (00_scope.md 3.0; R30). -/
inductive Segment
  | a
  | b
  deriving DecidableEq, Repr

/-- A short address: index `i` stands for the address `i + 1`, so the 96 indexes are exactly the addresses
0x01 to 0x60 (R1). The byte it has in a frame is `Addr.byte` (Machine/Bytes.lean). -/
abbrev Addr := Fin 96

/-- A group number: index `i` stands for group `i + 1`, 1 to 16 (R141). -/
abbrev GroupNo := Fin 16

/-- A six-byte factory identity, its bytes in the order they are sent (R197). -/
structure Identity where
  b0 : Byte
  b1 : Byte
  b2 : Byte
  b3 : Byte
  b4 : Byte
  b5 : Byte
  deriving DecidableEq, Repr

/-- A tag of 0 to 8 bytes; the empty list is the absent tag (R2: "a tag of length 0 is absent"). -/
abbrev Tag := List Byte

/-- One character as the receiver samples it (R156, R157): the 8 data bits, the parity bit (looked at only when the
format has one) and the FIRST stop bit; a second stop bit is not checked. -/
structure LineChar where
  data : Byte
  parity : Bool
  stop : Bool
  deriving DecidableEq, Repr

/-- The three kinds of SPI exchange (R173). -/
inductive ExchangeKind
  | statusRead
  | fetch
  | commandFrame
  deriving DecidableEq, Repr

/-- The two edges of CSn that frame an SPI exchange: it begins when CSn falls, and it ends when CSn rises, with the
complete bytes the host has shifted in by then (R173). -/
inductive ExchangeEdge
  | begins
  | ends (mosi : List Byte)
  deriving DecidableEq, Repr

/-- Kind of lease held, or to be granted on taking (R2). -/
inductive LeaseKind
  | timed
  | permanent
  deriving DecidableEq, Repr

end Sys2Proof
end

