-- ==== Sys2Proof/Syntax.lean ====
section
/-! DEFINITION. The commands of the block: one constructor for each row of spec/opcode_table.json, in the table's
order. A station-request row names the segment whose oldest ready frame the directory engine takes (R30); the frame
itself stands in State, where the line controller put it. A host-command row runs the command the port is EXECUTING
(R179); its parameters stand in State, where COMMAND_FRAME put them. -/

namespace Sys2Proof

inductive Instr
  -- station requests: the directory engine takes a ready frame
  | ask (seg : Segment)
  | take (seg : Segment)
  | claim (seg : Segment)
  | renew (seg : Segment)
  | release (seg : Segment)
  | retag (seg : Segment)
  | resolve (seg : Segment)
  | reverse (seg : Segment)
  | find (seg : Segment)
  | list (seg : Segment)
  | listAck (seg : Segment)
  | join (seg : Segment)
  | leave (seg : Segment)
  | members (seg : Segment)
  | unknownKindFrame (seg : Segment)
  -- timers; an address is given as its byte, 0x01 to 0x60
  | secondsBoundary
  | offerLapse (address : Byte)
  | leaseExpiry (address : Byte)
  | holdExpiry (address : Byte)
  | contestExpiry (address : Byte)
  | admissionWaitExpiry (identity : Identity)
  | recallWindowExpiry
  | ackTimerExpiry (seg : Segment)
  -- segment lines
  | characterReceived (seg : Segment) (ch : LineChar)
  | frameEnd (seg : Segment)
  | transmissionStart (seg : Segment)
  | backoffExpiry (seg : Segment)
  /-- `position` is the place in the head frame, from 0, of the character read back as `ch` -/
  | collision (seg : Segment) (position : Nat) (ch : LineChar)
  | frameSent (seg : Segment)
  | headFrameCutOff (seg : Segment)
  -- SPI exchanges: the edge of CSn at which an exchange of the row's kind begins or ends
  | statusRead (edge : ExchangeEdge)
  | fetch (edge : ExchangeEdge)
  | commandFrame (edge : ExchangeEdge)
  -- host commands in execution
  | unknownCommand
  | configureSegment
  | enableSegment
  | disableSegment
  | clearSegmentFlags
  | setPolicy
  | start
  | stop
  | clear
  | readRecord
  | findIdentity
  | reserve
  | unreserve
  | evict
  | modify
  | resolveContest
  | readAdmission
  | approve
  | deny
  | bar
  | unbar
  | readBarred
  | openGroup
  | closeGroup
  | addMember
  | removeMember
  | readGroup
  | collect
  | readFactors
  | clearFactors
  | setEnables
  | readStatus
  -- resets
  | powerOnReset
  | pinReset
  | resetEnd
  deriving DecidableEq, Repr

end Sys2Proof
end

