-- ==== Sys2Proof/Decode.lean ====
section
/-! DEFINITION. The block has no instruction decoder: its commands arrive as events, and spec/opcode_table.json gives no
row any bits ("n_rows_with_fixed": 0 in spec/98_reader.md). -/

namespace Sys2Proof

/-- The command a word spells by the table's bits. No row of the table gives bits, so no word spells one. -/
def decodeTableWord (_nbits _w : Nat) : Option Instr := none

end Sys2Proof
end

