-- ==== Sys2Proof/Machine/Bytes.lean ====
section
/-! DEFINITION. Bytes and what is read out of them: addresses, group numbers, identities, tags, multi-byte numbers,
the CRC-16 of station frames, the CRC-8 of host frames, and the kind of an SPI exchange (R173, R195, R196, R200). -/

namespace Sys2Proof.Machine

/-- The byte of a short address: 0x01 to 0x60 (R1). -/
def addrByte (a : Addr) : Byte := BitVec.ofNat 8 (a.val + 1)

/-- The short address a byte names; none outside 0x01 to 0x60 (R1). -/
def addrOf? (b : Byte) : Option Addr :=
  if h : 1 ≤ b.toNat ∧ b.toNat ≤ 96 then some ⟨b.toNat - 1, by omega⟩ else none

/-- The byte of a group number: 1 to 16 (R141). -/
def groupByte (g : GroupNo) : Byte := BitVec.ofNat 8 (g.val + 1)

/-- The group a byte names; none outside 1 to 16 (R141). -/
def groupOf? (b : Byte) : Option GroupNo :=
  if h : 1 ≤ b.toNat ∧ b.toNat ≤ 16 then some ⟨b.toNat - 1, by omega⟩ else none

/-- The group address 0xE0 + n (R141). -/
def groupAddress (g : GroupNo) : Byte := BitVec.ofNat 8 (0xE1 + g.val)

/-- Every short address, ascending. -/
def allAddrs : List Addr := List.finRange 96

/-- Every group number, ascending. -/
def allGroups : List GroupNo := List.finRange 16

/-- Neither all 0x00 nor all 0xFF (R4). -/
def validIdentity (i : Identity) : Bool :=
  decide (i ≠ ⟨0, 0, 0, 0, 0, 0⟩ ∧ i ≠ ⟨0xFF, 0xFF, 0xFF, 0xFF, 0xFF, 0xFF⟩)

/-- The six bytes of an identity, first byte first (R197). -/
def identityBytes (i : Identity) : List Byte := [i.b0, i.b1, i.b2, i.b3, i.b4, i.b5]

/-- A valid identity from exactly six bytes. -/
def identityOf? : List Byte → Option Identity
  | [b0, b1, b2, b3, b4, b5] =>
    let i : Identity := ⟨b0, b1, b2, b3, b4, b5⟩
    if validIdentity i then some i else none
  | _ => none

/-- The place of an identity in ascending order: "compared byte by byte from the first byte" (R74). -/
def identityKey (i : Identity) : Nat :=
  (identityBytes i).foldl (fun n b => 256 * n + b.toNat) 0

/-- A tag field: a length of 0 to 8 and exactly that many bytes (R34, R200). -/
def tagOf? : List Byte → Option Tag
  | [] => none
  | n :: rest => if n.toNat ≤ 8 ∧ rest.length = n.toNat then some rest else none

/-- A tag as a field: its length byte, then its bytes (R200). -/
def tagField (t : Tag) : List Byte := BitVec.ofNat 8 t.length :: t

/-- A two-byte number, least significant byte first (R200). -/
def le16 (n : Nat) : List Byte := [BitVec.ofNat 8 n, BitVec.ofNat 8 (n / 256)]

/-- The number in two bytes, least significant byte first. -/
def fromLe16 (lo hi : Byte) : Nat := lo.toNat + 256 * hi.toNat

/-- A 32-bit number, least significant byte first (R200). -/
def le32 (g : BitVec 32) : List Byte :=
  [g.extractLsb' 0 8, g.extractLsb' 8 8, g.extractLsb' 16 8, g.extractLsb' 24 8]

/-- `f` applied `n` times. -/
def iterate {α : Type} (f : α → α) : Nat → α → α
  | 0, x => x
  | n + 1, x => iterate f n (f x)

/-- One shift of the CRC-16 register (R196). -/
def crc16Shift (r : BitVec 16) : BitVec 16 :=
  if r.getLsbD 15 then (r <<< 1) ^^^ 0x1021 else r <<< 1

/-- One byte taken into the CRC-16 register: combined into the upper eight bits, then eight shifts (R196). -/
def crc16Byte (r : BitVec 16) (b : Byte) : BitVec 16 :=
  iterate crc16Shift 8 (r ^^^ (b ++ (0 : BitVec 8)))

/-- The CRC-16 of a station frame: x^16 + x^12 + x^5 + 1 from 0xFFFF, no final inversion (R196). -/
def crc16 (bytes : List Byte) : BitVec 16 := bytes.foldl crc16Byte 0xFFFF

/-- The two CRC bytes as sent, low byte first (R196). -/
def crc16Bytes (bytes : List Byte) : List Byte :=
  [(crc16 bytes).extractLsb' 0 8, (crc16 bytes).extractLsb' 8 8]

/-- One shift of the CRC-8 register (R200). -/
def crc8Shift (r : BitVec 8) : BitVec 8 :=
  if r.getLsbD 7 then (r <<< 1) ^^^ 0x07 else r <<< 1

/-- One byte taken into the CRC-8 register (R200). -/
def crc8Byte (r : BitVec 8) (b : Byte) : BitVec 8 := iterate crc8Shift 8 (r ^^^ b)

/-- The CRC-8 of a command or reply frame: x^8 + x^2 + x + 1 from 0x00, no final inversion (R176, R200). -/
def crc8 (bytes : List Byte) : Byte := bytes.foldl crc8Byte 0

/-- The kind of an exchange, from the complete bytes shifted in: 0x00 is a status read at any length, 0xF0 a fetch at
any length, any other code a command frame when two or more bytes are complete and a status read otherwise (R173). -/
def exchangeKind : List Byte → ExchangeKind
  | [] => .statusRead
  | [c] => if c = 0xF0 then .fetch else .statusRead
  | c :: _ :: _ => if c = 0x00 then .statusRead else if c = 0xF0 then .fetch else .commandFrame

/-- An edge of CSn that an exchange of the kind can have: its beginning, when the kind is not known yet, or its end with
bytes of the kind (R173). -/
def edgeOfKind (k : ExchangeKind) : ExchangeEdge → Bool
  | .begins => true
  | .ends mosi => decide (exchangeKind mosi = k)

/-- `a` put in front of the first element that `p` holds of, or at the tail when `p` holds of none. -/
def insertBefore {α : Type} (p : α → Bool) (a : α) : List α → List α
  | [] => [a]
  | x :: xs => if p x then a :: x :: xs else x :: insertBefore p a xs

end Sys2Proof.Machine
end

