-- ==== Sys2Proof/Config.lean ====
section
/-! DEFINITION. The capacities and fixed figures of the part (00_scope.md 1.0.2; R133, R142, R164, R167). The spec
leaves no value for an implementation to choose, so this file holds no free value. -/

namespace Sys2Proof.Config

/-- Member entries shared by all groups (R142). -/
def poolSize : Nat := 128

/-- Places in the admission queue (R69). -/
def admissionPlaces : Nat := 8

/-- Places in the barred set (R74). -/
def barredPlaces : Nat := 16

/-- Receive frame slots of a segment (R160). -/
def receiveSlots : Nat := 2

/-- Frames a transmit queue holds (R164). -/
def transmitPlaces : Nat := 4

/-- Characters of a frame that are stored (R158). -/
def storedCharacters : Nat := 47

/-- Length of the listing acknowledgement timeout in milliseconds (R133). -/
def ackTimeout : Nat := 250

/-- Sends of one LISTING frame (R135). -/
def listingSends : Nat := 4

/-- Entries a LISTING frame carries at most (R132). -/
def listingEntries : Nat := 4

/-- The collision that drops the head frame (R167). -/
def lastCollision : Nat := 4

/-- Idle character times that end a frame (R158). -/
def frameEndIdle : Nat := 3

/-- Idle character times before a transmission (R165). -/
def transmitIdle : Nat := 4

/-- Marks one COLLECT returns at most (R193). -/
def collectMarks : Nat := 32

end Sys2Proof.Config
end

