-- ==== Sys2Proof/Machine/State.lean ====
section
/-! DEFINITION. The state of the part: the binding table and its queues (chapter 1), the directory phase and policy
(chapters 4, 5, 9), the admission unit (3), the listing units (6), the group unit (7), the segment line controllers (8),
the host command port (9), the attention unit (10), the resets (11), and the queue of commands still to be run. -/

namespace Sys2Proof.Machine

/-! ### Binding records (R1 to R3) -/

/-- A remaining count of whole seconds (R17). `due` is set by the seconds boundary that ends the count and stays set
until the expiry of that same boundary is applied; the expiry is one application with the last decrement (R79), so the
count stands at its last second until then. -/
structure Countdown where
  remaining : Nat
  due : Bool
  deriving DecidableEq, Repr

/-- Identity, class, tag and segment of the party an OFFERED, BOUND, HELD or CONTESTED binding is for (R2, R3). -/
structure Holder where
  identity : Identity
  cls : Byte
  tag : Tag
  segment : Segment
  deriving DecidableEq, Repr

/-- What a RESERVED binding carries (R3): identity, class, tag and lease kind. -/
structure Reservation where
  identity : Identity
  cls : Byte
  tag : Tag
  kind : LeaseKind
  deriving DecidableEq, Repr

/-- The lease of a BOUND or CONTESTED binding: lease granted and lease remaining, or PERMANENT, which has neither
(R16, R84). -/
inductive Lease
  | timed (granted : Nat) (remaining : Countdown)
  | permanent
  deriving DecidableEq, Repr

/-- Where an OFFERED address returns (R10, R11). The lease kind is present when the origin is RESERVED (R3); the
reserved attribute of an OFFERED binding is yes exactly then (R15). -/
inductive Origin
  | free
  | held
  | reserved (kind : LeaseKind)
  deriving DecidableEq, Repr

/-- The status of a station reply (R38's table, section 2.3). -/
inductive Status
  | ok | restored | already | wait | full | refused | barred | taken | stale | moved | contested | unknown | badreq
  | busy | nogroup | groupfull | poolfull | notmember | hostonly
  deriving DecidableEq, Repr

/-- Last sequence and cached reply, always written and dropped together (R18): the sequence, and the kind, status and
what follows the status of the reply. -/
structure Replay where
  sequence : BitVec 4
  kind : Byte
  status : Status
  rest : List Byte
  deriving DecidableEq, Repr

/-- Challenger identity, class and segment (R2, R14). -/
structure Challenger where
  identity : Identity
  cls : Byte
  segment : Segment
  deriving DecidableEq, Repr

/-- A binding record: one constructor for each binding state, carrying exactly the fields R3 marks for it. FREE and
HELD have the reserved attribute no, RESERVED has it yes, OFFERED as its origin says. -/
inductive Binding
  | free
  | reserved (r : Reservation)
  | offered (holder : Holder) (origin : Origin) (remaining : Countdown)
  | bound (holder : Holder) (lease : Lease) (reserved : Bool) (replay : Option Replay)
  /-- `former` is absent in an anonymous HELD binding -/
  | held (former : Option Holder) (remaining : Countdown)
  /-- the lease is frozen; `remaining` is absent when the contest window was 0 -/
  | contested (incumbent : Holder) (lease : Lease) (reserved : Bool) (replay : Option Replay)
      (challenger : Challenger) (remaining : Option Countdown)
  deriving DecidableEq, Repr

/-- The names of the six binding states (R1). -/
inductive BindingState
  | free | reserved | offered | bound | held | contested
  deriving DecidableEq, Repr

/-! ### Directory phase, policy, change marks -/

/-- The directory phase; recall remaining exists in RECALL alone (R98). -/
inductive Phase
  | stopped
  | recall (remaining : Countdown)
  | running
  deriving DecidableEq, Repr

inductive AdmissionMode
  | open_
  | supervised
  | closed
  deriving DecidableEq, Repr

/-- The eight policy parameters (R184). -/
structure Policy where
  mode : AdmissionMode
  offerLimit : Nat
  offerWindow : Nat
  defaultLease : Nat
  maximumLease : Nat
  holdPeriod : Nat
  admissionWindow : Nat
  contestWindow : Nat
  deriving DecidableEq, Repr

/-- The defaults both resets set (R28). -/
def Policy.default : Policy :=
  { mode := .open_, offerLimit := 4, offerWindow := 5, defaultLease := 600, maximumLease := 3600, holdPeriod := 120,
    admissionWindow := 60, contestWindow := 0 }

/-- A change mark: the record of one address or of one group (R27). -/
inductive Mark
  | addr (a : Addr)
  | group (g : GroupNo)
  deriving DecidableEq, Repr

/-- What the places of R20 and R22 need to know of the running seconds boundary, so that the expiries of one boundary
take the places those rules give whichever is applied first (log 3): the hold queue as the boundary found it, the
addresses of offers that have lapsed to the head of the free queue, of holds that have expired to its tail, of other
bindings that have reached its tail, and of bindings that have entered HELD, each at this boundary. -/
structure Boundary where
  holds : List Addr
  lapsed : List Addr
  expired : List Addr
  others : List Addr
  entered : List Addr
  deriving DecidableEq, Repr

def Boundary.none : Boundary := ⟨[], [], [], [], []⟩

/-! ### Admission unit (R69, R74) -/

/-- An admission entry (R69). -/
structure AdmissionEntry where
  identity : Identity
  cls : Byte
  tag : Tag
  segment : Segment
  wait : Countdown
  deriving DecidableEq, Repr

/-! ### Group unit (R141) -/

inductive JoinPolicy
  | stations
  | hostonly
  deriving DecidableEq, Repr

/-- A group record; an UNUSED group carries no limit, policy or members (R141). Members stand in join order (R143). -/
inductive GroupRecord
  | unused
  | opened (limit : Nat) (policy : JoinPolicy) (members : List Addr)
  deriving DecidableEq, Repr

/-! ### Frames, segment line controllers and listing units -/

/-- A station frame without its CRC, which is computed from the rest (R195, R196). The body length is the length of
`body`. `control` is header byte 3, whose low four bits are the sequence. -/
structure Frame where
  destination : Byte
  source : Byte
  kind : Byte
  control : Byte
  body : List Byte
  deriving DecidableEq, Repr

/-- What a queued frame is (R50 to R52). `awaited` marks the copy of a LISTING frame whose send end the listing unit
waits for; the send end of any other copy is ignored (R133). -/
inductive FrameClass
  | reply
  | notice
  | listing (awaited : Bool)
  deriving DecidableEq, Repr

structure QueuedFrame where
  cls : FrameClass
  frame : Frame
  deriving DecidableEq, Repr

/-- How the controller follows the frame on the line, settled by its first character (R159, R160): a first character in
error, station traffic, a directory frame stored in a receive slot, or a directory frame that found both slots ready. -/
inductive Following
  | unreadable
  | traffic
  | stored
  | overrun
  deriving DecidableEq, Repr

/-- The frame being received: how it is followed, the bytes stored in the filling slot (at most 47), the characters
counted, and the errors recorded against it (R157, R158). -/
structure Reception where
  following : Following
  stored : List Byte
  count : Nat
  framing : Bool
  parity : Bool
  deriving DecidableEq, Repr

/-- The six segment states (R155). In TRANSMITTING, `cutOff` is set once the frame on the line has been removed from
the queue and only the character in progress is still going out (R164). -/
inductive LineState
  | disabled
  | idle
  | receiving (r : Reception)
  | waitGap
  | transmitting (cutOff : Bool)
  | backoff
  deriving DecidableEq, Repr

inductive Baud
  | b9600 | b19200 | b38400 | b57600 | b115200 | b230400
  deriving DecidableEq, Repr

inductive Parity
  | none | even | odd
  deriving DecidableEq, Repr

/-- One or two stop bits (R156). -/
inductive StopBits
  | one | two
  deriving DecidableEq, Repr

/-- The character format of a segment (R155, R171). -/
structure Format where
  baud : Baud
  parity : Parity
  stop : StopBits
  deriving DecidableEq, Repr

/-- A segment line controller (R155). `ready` holds the ready receive slots in their order of arrival; the filling slot
is the `stored` frame of RECEIVING; any other slot is empty (R160). `idle` is the idle count as far as the events run
so far fix it (log 4). `flags` holds FRAMING, PARITY, LENGTH, CRC, ADDRESS and OVERRUN in bits 0 to 5 (R198). -/
structure Controller where
  line : LineState
  format : Format
  ready : List Frame
  queue : List QueuedFrame
  collisions : Nat
  idle : Nat
  flags : BitVec 6
  deriving DecidableEq, Repr

/-- The controller after either reset (R155). -/
def Controller.reset : Controller :=
  { line := .disabled, format := ⟨.b19200, .none, .one⟩, ready := [], queue := [], collisions := 0, idle := 0, flags := 0 }

/-- One entry of a LISTING frame (R132, R197). -/
structure ListingEntry where
  address : Addr
  state : BindingState
  cls : Byte
  identity : Identity
  deriving DecidableEq, Repr

/-- A LISTING frame as built (R130, R132). -/
structure BuiltFrame where
  index : Nat
  endFlag : Bool
  moved : Bool
  empty : Bool
  generation : BitVec 16
  entries : List ListingEntry
  deriving DecidableEq, Repr

/-- The fields of a listing in progress (R130). `next` is a short address, 1 to 96. `timer` is the acknowledgement
timer: stopped, or running with the milliseconds it was started at (log 4). The frame index is `built.index`. -/
structure Listing where
  requester : Addr
  sequence : BitVec 4
  filter : Byte
  next : Nat
  startGeneration : BitVec 32
  built : BuiltFrame
  sends : Nat
  timer : Option Nat
  deriving DecidableEq, Repr

/-! ### Host command port (R175) -/

/-- The statuses of host replies (R180). -/
inductive HostStatus
  | done | noSuch | wrongState | wrongPhase | noRoom | limit | badParameter | unknownCommand
  deriving DecidableEq, Repr

/-- A reply held by the port, without its length and CRC-8, which are computed from the rest (R178). -/
structure HostReply where
  status : HostStatus
  data : List Byte
  deriving DecidableEq, Repr

/-- The port state, with the command in execution or the reply held (R175). -/
inductive PortState
  | idle
  | executing (code : Byte) (params : List Byte)
  | ready (reply : HostReply)
  deriving DecidableEq, Repr

/-- The host command port: its state and its two flags (R175); the exchange in progress, if CSn is low, as the port status
byte built when CSn fell (R174); and the complete bytes shifted out on MISO in the last exchange that ended, the status byte
first (R173). -/
structure Port where
  state : PortState
  refused : Bool
  check : Bool
  selected : Option Byte
  miso : List Byte
  deriving DecidableEq, Repr

def Port.reset : Port := { state := .idle, refused := false, check := false, selected := none, miso := [] }

/-! ### The whole -/

inductive ResetCause
  | powerOn
  | pin
  deriving DecidableEq, Repr

/-- The state of the Ruzpel 3120. -/
structure State where
  /-- the 96 binding records (R1) -/
  table : Vector Binding 96
  /-- head first (R19, R20) -/
  freeQueue : List Addr
  /-- oldest first (R19, R22) -/
  holdQueue : List Addr
  phase : Phase
  policy : Policy
  /-- the generation number (R26) -/
  generation : BitVec 32
  /-- the change set, kept ascending: addresses, then groups (R27) -/
  marks : List Mark
  boundary : Boundary
  /-- the admission queue, head first (R69) -/
  admission : List AdmissionEntry
  /-- the barred set, kept in ascending order of identity (R74) -/
  barred : List Identity
  /-- the 16 group records (R141) -/
  groups : Vector GroupRecord 16
  /-- free entries of the member pool (R142) -/
  poolFree : Nat
  lineA : Controller
  lineB : Controller
  /-- the listing in progress on segment A, if any (R130) -/
  listingA : Option Listing
  listingB : Option Listing
  port : Port
  /-- the ten event factors, in bits 0 to 9 of the factor field (R189, R198) -/
  events : BitVec 10
  /-- the twelve enables, in bits 0 to 11 (R191, R198) -/
  enables : BitVec 12
  /-- the cause of the last reset that has ended (R185, R203) -/
  lastReset : ResetCause
  /-- the reset that is holding the part, if any (R203) -/
  inReset : Option ResetCause
  /-- commands waiting to be run, first in, first out -/
  pending : List Instr
  deriving DecidableEq, Repr

/-- Why a step stops with a fault. The spec names no event that stops the part, and no meaning of this model ends in
a fault, so there is none. -/
inductive Fault
  deriving DecidableEq, Repr

/-- Why a command has no meaning here. -/
inductive Refusal
  /-- raised by an arm of exec for a command that is not modelled yet, by its mnemonic (safe); no arm does -/
  | notModelled (mnemonic : String)
  deriving DecidableEq, Repr

/-- The part right after a power-on reset has ended (R28, R97, R98, R130, R141, R142, R155, R188, R194, R203): every
block at the value its chapter gives, the factor RESET set with its enable, and the reset cause POWER-ON. -/
def State.reset : State :=
  { table := Vector.replicate 96 .free
    freeQueue := List.finRange 96
    holdQueue := []
    phase := .stopped
    policy := Policy.default
    generation := 0
    marks := []
    boundary := Boundary.none
    admission := []
    barred := []
    groups := Vector.replicate 16 .unused
    poolFree := Config.poolSize
    lineA := Controller.reset
    lineB := Controller.reset
    listingA := none
    listingB := none
    port := Port.reset
    events := 1
    enables := 1
    lastReset := .powerOn
    inReset := none
    pending := [] }

end Sys2Proof.Machine
end

