-- ==== Sys2Proof/Machine/Codes.lean ====
section
/-! DEFINITION. The code tables of chapter 11 (R197, R198, R202), with section 2.3 for the station statuses, and the
readings of coded host parameters, which give none for a value the tables give no meaning (R200). -/

namespace Sys2Proof.Machine

/-! ### Addresses and kinds -/

/-- The directory address 0xFE (00_scope.md 3.0). -/
def directoryAddress : Byte := 0xFE

/-- The all-stations address 0xFF (00_scope.md 3.0). -/
def allStations : Byte := 0xFF

/-- "any class" in filters (00_scope.md 4.0). -/
def anyClass : Byte := 0xFF

def kindAsk : Byte := 0x10
def kindTake : Byte := 0x11
def kindClaim : Byte := 0x12
def kindRenew : Byte := 0x20
def kindRelease : Byte := 0x21
def kindRetag : Byte := 0x22
def kindResolve : Byte := 0x30
def kindReverse : Byte := 0x31
def kindFind : Byte := 0x32
def kindList : Byte := 0x33
def kindListAck : Byte := 0x34
def kindJoin : Byte := 0x40
def kindLeave : Byte := 0x41
def kindMembers : Byte := 0x42

/-- The fourteen request kinds (R32). -/
def requestKinds : List Byte :=
  [kindAsk, kindTake, kindClaim, kindRenew, kindRelease, kindRetag, kindResolve, kindReverse, kindFind, kindList,
   kindListAck, kindJoin, kindLeave, kindMembers]

/-- The kind of a reply: the request kind + 0x80 (R36). -/
def replyKind (k : Byte) : Byte := k + 0x80

def kindRecall : Byte := 0x60
def kindVacate : Byte := 0x61
def kindGroupClosed : Byte := 0x62
/-- LISTING frames carry 0xB3, as the LIST reply does (R198). -/
def kindListing : Byte := 0xB3

/-- The reasons of VACATE (R48, R197). -/
inductive VacateReason
  | evicted | barred | contestLost
  deriving DecidableEq, Repr

def VacateReason.code : VacateReason → Byte
  | .evicted => 0x01
  | .barred => 0x02
  | .contestLost => 0x03

/-! ### Statuses -/

/-- Section 2.3. -/
def Status.code : Status → Byte
  | .ok => 0x00
  | .restored => 0x01
  | .already => 0x02
  | .wait => 0x10
  | .full => 0x11
  | .refused => 0x12
  | .barred => 0x13
  | .taken => 0x14
  | .stale => 0x15
  | .moved => 0x16
  | .contested => 0x17
  | .unknown => 0x18
  | .badreq => 0x19
  | .busy => 0x1A
  | .nogroup => 0x20
  | .groupfull => 0x21
  | .poolfull => 0x22
  | .notmember => 0x23
  | .hostonly => 0x24

def HostStatus.code : HostStatus → Byte
  | .done => 0x00
  | .noSuch => 0x01
  | .wrongState => 0x02
  | .wrongPhase => 0x03
  | .noRoom => 0x04
  | .limit => 0x05
  | .badParameter => 0x06
  | .unknownCommand => 0x07

/-! ### Coded fields -/

/-- R197, last sentence. -/
def BindingState.code : BindingState → Byte
  | .free => 0x00
  | .reserved => 0x01
  | .offered => 0x02
  | .bound => 0x03
  | .held => 0x04
  | .contested => 0x05

def segmentCode : Segment → Byte
  | .a => 0x00
  | .b => 0x01

def segmentOf? (b : Byte) : Option Segment :=
  if b = 0x00 then some .a else if b = 0x01 then some .b else none

def Baud.code : Baud → Byte
  | .b9600 => 0x00
  | .b19200 => 0x01
  | .b38400 => 0x02
  | .b57600 => 0x03
  | .b115200 => 0x04
  | .b230400 => 0x05

def baudOf? (b : Byte) : Option Baud :=
  if b = 0x00 then some .b9600 else if b = 0x01 then some .b19200 else if b = 0x02 then some .b38400
  else if b = 0x03 then some .b57600 else if b = 0x04 then some .b115200 else if b = 0x05 then some .b230400 else none

def Parity.code : Parity → Byte
  | .none => 0x00
  | .even => 0x01
  | .odd => 0x02

def parityOf? (b : Byte) : Option Parity :=
  if b = 0x00 then some Parity.none else if b = 0x01 then some .even else if b = 0x02 then some .odd else none

def StopBits.code : StopBits → Byte
  | .one => 0x01
  | .two => 0x02

def stopBitsOf? (b : Byte) : Option StopBits :=
  if b = 0x01 then some .one else if b = 0x02 then some .two else none

def AdmissionMode.code : AdmissionMode → Byte
  | .open_ => 0x00
  | .supervised => 0x01
  | .closed => 0x02

def admissionModeOf? (b : Byte) : Option AdmissionMode :=
  if b = 0x00 then some .open_ else if b = 0x01 then some .supervised else if b = 0x02 then some .closed else none

def JoinPolicy.code : JoinPolicy → Byte
  | .stations => 0x00
  | .hostonly => 0x01

def joinPolicyOf? (b : Byte) : Option JoinPolicy :=
  if b = 0x00 then some .stations else if b = 0x01 then some .hostonly else none

/-- The keep choice of RESOLVE-CONTEST. -/
inductive Keep
  | incumbent | challenger | neither
  deriving DecidableEq, Repr

def keepOf? (b : Byte) : Option Keep :=
  if b = 0x00 then some .incumbent else if b = 0x01 then some .challenger else if b = 0x02 then some .neither else none

/-- The lease choice of MODIFY. -/
inductive LeaseChoice
  | keep | timed | permanent
  deriving DecidableEq, Repr

def leaseChoiceOf? (b : Byte) : Option LeaseChoice :=
  if b = 0x00 then some .keep else if b = 0x01 then some .timed else if b = 0x02 then some .permanent else none

def leaseKindCode : LeaseKind → Byte
  | .timed => 0x00
  | .permanent => 0x01

/-- Yes 0x01, no 0x00. -/
def yesNoCode (b : Bool) : Byte := if b then 0x01 else 0x00

def yesNoOf? (b : Byte) : Option Bool :=
  if b = 0x00 then some false else if b = 0x01 then some true else none

/-- The state codes of FREE, HELD, RESERVED (R198). -/
def Origin.code : Origin → Byte
  | .free => 0x00
  | .held => 0x04
  | .reserved _ => 0x01

def ResetCause.code : ResetCause → Byte
  | .powerOn => 0x00
  | .pin => 0x01

/-- Segment state byte (R202). -/
def LineState.code : LineState → Byte
  | .disabled => 0x00
  | .idle => 0x01
  | .receiving _ => 0x02
  | .waitGap => 0x03
  | .transmitting _ => 0x04
  | .backoff => 0x05

/-- The phase, as the port status byte and the phase bytes of replies show it (R199, R202). -/
def Phase.code : Phase → BitVec 2
  | .stopped => 0
  | .recall _ => 1
  | .running => 2

def phaseByte (p : Phase) : Byte := 0#6 ++ p.code

/-- 0xFF: a one-byte field that its rule gives as absent (R202). -/
def absentByte : Byte := 0xFF

/-- The no-reply marker of a fetch (R200). -/
def noReplyMarker : Byte := 0xFF

/-! ### Command codes (R181 to R183) -/

def codeConfigureSegment : Byte := 0x01
def codeEnableSegment : Byte := 0x02
def codeDisableSegment : Byte := 0x03
def codeClearSegmentFlags : Byte := 0x04
def codeSetPolicy : Byte := 0x10
def codeStart : Byte := 0x11
def codeStop : Byte := 0x12
def codeClear : Byte := 0x13
def codeReadRecord : Byte := 0x20
def codeFindIdentity : Byte := 0x21
def codeReserve : Byte := 0x22
def codeUnreserve : Byte := 0x23
def codeEvict : Byte := 0x24
def codeModify : Byte := 0x25
def codeResolveContest : Byte := 0x26
def codeReadAdmission : Byte := 0x30
def codeApprove : Byte := 0x31
def codeDeny : Byte := 0x32
def codeBar : Byte := 0x33
def codeUnbar : Byte := 0x34
def codeReadBarred : Byte := 0x35
def codeOpenGroup : Byte := 0x40
def codeCloseGroup : Byte := 0x41
def codeAddMember : Byte := 0x42
def codeRemoveMember : Byte := 0x43
def codeReadGroup : Byte := 0x44
def codeCollect : Byte := 0x50
def codeReadFactors : Byte := 0x51
def codeClearFactors : Byte := 0x52
def codeSetEnables : Byte := 0x53
def codeReadStatus : Byte := 0x60

/-- The command catalogue. -/
def catalogue : List Byte :=
  [codeConfigureSegment, codeEnableSegment, codeDisableSegment, codeClearSegmentFlags, codeSetPolicy, codeStart,
   codeStop, codeClear, codeReadRecord, codeFindIdentity, codeReserve, codeUnreserve, codeEvict, codeModify,
   codeResolveContest, codeReadAdmission, codeApprove, codeDeny, codeBar, codeUnbar, codeReadBarred, codeOpenGroup,
   codeCloseGroup, codeAddMember, codeRemoveMember, codeReadGroup, codeCollect, codeReadFactors, codeClearFactors,
   codeSetEnables, codeReadStatus]

end Sys2Proof.Machine
end

