-- ==== Sys2Proof/Machine/Flags.lean ====
section
/-! DEFINITION. Every flag computation: the event factors, enables and condition factors (R189 to R191), ATTNn, the
segment flags (R163), the port status byte (R174, R199) and the checks of a received character (R157). -/

namespace Sys2Proof.Machine

/-- The ten event factors (R189). -/
inductive Factor
  | reset | admitPending | contest | exhausted | recallDone | segmentAError | segmentBError | contention
  | noticeDropped | listingAbandoned
  deriving DecidableEq, Repr

/-- The position of an event factor in the factor fields (R198). -/
def Factor.bit : Factor → Nat
  | .reset => 0
  | .admitPending => 1
  | .contest => 2
  | .exhausted => 3
  | .recallDone => 4
  | .segmentAError => 5
  | .segmentBError => 6
  | .contention => 7
  | .noticeDropped => 8
  | .listingAbandoned => 9

/-- An event factor is set by its cause, whatever its enable (R189). -/
def State.setFactor (f : Factor) (s : State) : State :=
  { s with events := s.events ||| BitVec.twoPow 10 f.bit }

/-- Whether an event factor is set. -/
def State.factor (f : Factor) (s : State) : Bool := s.events.getLsbD f.bit

/-- The port is READY: the condition of REPLY (R190). -/
def PortState.isReady : PortState → Bool
  | .ready _ => true
  | .idle | .executing _ _ => false

def PortState.isExecuting : PortState → Bool
  | .executing _ _ => true
  | .idle | .ready _ => false

/-- The twelve factors as they read: REPLY, CHANGES, then the ten event factors (R190, R198). -/
def State.factors (s : State) : BitVec 12 :=
  BitVec.ofBool s.port.state.isReady ++ (BitVec.ofBool (!s.marks.isEmpty) ++ s.events)

/-- ATTNn is asserted: some factor is set and enabled, and no reset holds the part (R191, R203). -/
def State.attn (s : State) : Bool :=
  s.inReset.isNone && decide (s.factors &&& s.enables ≠ 0)

/-- The port status byte (R174, R199). -/
def State.statusByte (s : State) : Byte :=
  BitVec.ofBool s.port.state.isReady ++ (BitVec.ofBool s.port.state.isExecuting ++ (BitVec.ofBool s.port.refused
    ++ (BitVec.ofBool s.port.check ++ (BitVec.ofBool s.attn ++ (0#1 ++ s.phase.code)))))

/-- A factor field from its two bytes, low byte first; none when a position that belongs to no factor is set
(R191, R200). -/
def factorFieldOf? (lo hi : Byte) : Option (BitVec 12) :=
  if hi.toNat < 16 then some (BitVec.ofNat 12 (fromLe16 lo hi)) else none

/-- A factor field as two bytes, low byte first (R191, R198). That the four bits which belong to no factor read 0 in a
reply is the model's choice (log 18). -/
def factorBytes (f : BitVec 12) : List Byte := le16 f.toNat

/-! ### Segment flags (R163, R198) -/

inductive SegmentFlag
  | framing | parity | length | crc | address | overrun
  deriving DecidableEq, Repr

def SegmentFlag.bit : SegmentFlag → Nat
  | .framing => 0
  | .parity => 1
  | .length => 2
  | .crc => 3
  | .address => 4
  | .overrun => 5

/-- A flags byte; none when bit 6 or 7 is set (R200). -/
def segmentFlagsOf? (b : Byte) : Option (BitVec 6) :=
  if b.toNat < 64 then some (BitVec.ofNat 6 b.toNat) else none

/-- The segment flags byte of a reply (R198, R202). That bits 6 and 7, which no rule gives a value in a reply, read 0 is the
model's choice (log 19). -/
def segmentFlagsByte (f : BitVec 6) : Byte := 0#2 ++ f

/-- The event factor a cause of a segment flag sets (R163). -/
def segmentErrorFactor : Segment → Factor
  | .a => .segmentAError
  | .b => .segmentBError

/-- The flags with those of a list set. -/
def raiseFlags (causes : List SegmentFlag) (f : BitVec 6) : BitVec 6 :=
  causes.foldl (fun g c => g ||| BitVec.twoPow 6 c.bit) f

/-! ### Characters (R156, R157) -/

/-- An odd count of ones in the eight data bits. -/
def oddOnes (b : Byte) : Bool :=
  b.getLsbD 0 ^^ b.getLsbD 1 ^^ b.getLsbD 2 ^^ b.getLsbD 3 ^^ b.getLsbD 4 ^^ b.getLsbD 5 ^^ b.getLsbD 6 ^^ b.getLsbD 7

/-- The levels of a character on the line, one bit time each: a low start bit, the data bits from the least significant on, a
parity bit when the format has one, and one or two high stop bits (R156). -/
def charLevels (f : Format) (b : Byte) : List Bool :=
  false :: (List.range 8).map b.getLsbD
    ++ (match f.parity with
      | .none => []
      | .even => [oddOnes b]
      | .odd => [!oddOnes b])
    ++ (match f.stop with
      | .one => [true]
      | .two => [true, true])

/-- Framing error: the first stop bit reads low (R157). -/
def framingError (ch : LineChar) : Bool := !ch.stop

/-- Parity error: with even parity the ones of the data and parity bits must be even, with odd parity odd (R157). -/
def parityError (f : Format) (ch : LineChar) : Bool :=
  match f.parity with
  | .none => false
  | .even => oddOnes ch.data ^^ ch.parity
  | .odd => !(oddOnes ch.data ^^ ch.parity)

end Sys2Proof.Machine
end

