-- ==== Sys2Proof/Machine/Ops.lean ====
section
/-! DEFINITION. The named operations the meanings share: access to the records, the two address queues, group
memberships, the state entries of section 1.2, record changes (section 1.5), listings, and the hand-over of frames to the
transmit queues (section 2.6). -/

namespace Sys2Proof.Machine

/-! ### Access -/

/-- The binding record of an address (R1). -/
def State.binding (s : State) (a : Addr) : Binding := s.table[a.val]

def State.setBinding (a : Addr) (b : Binding) (s : State) : State :=
  { s with table := s.table.set a.val b }

/-- The record of a group (R141). -/
def State.group (s : State) (g : GroupNo) : GroupRecord := s.groups[g.val]

def State.setGroup (g : GroupNo) (r : GroupRecord) (s : State) : State :=
  { s with groups := s.groups.set g.val r }

/-- The line controller of a segment (R155). -/
def State.line (s : State) : Segment → Controller
  | .a => s.lineA
  | .b => s.lineB

def State.setLine (seg : Segment) (c : Controller) (s : State) : State :=
  match seg with
  | .a => { s with lineA := c }
  | .b => { s with lineB := c }

/-- The listing of a segment's listing unit; none when the unit is idle (R130). -/
def State.listing (s : State) : Segment → Option Listing
  | .a => s.listingA
  | .b => s.listingB

def State.setListing (seg : Segment) (l : Option Listing) (s : State) : State :=
  match seg with
  | .a => { s with listingA := l }
  | .b => { s with listingB := l }

/-- The directory phase is STOPPED (R98). -/
def Phase.isStopped : Phase → Bool
  | .stopped => true
  | .recall _ | .running => false

def Phase.isRecall : Phase → Bool
  | .recall _ => true
  | .stopped | .running => false

/-- A count freshly set to `n` seconds (R17). -/
def Countdown.fresh (n : Nat) : Countdown := ⟨n, false⟩

/-- A count that stands where it is, with no expiry pending: frozen (R14) or stopped (R80). -/
def Countdown.frozen (c : Countdown) : Countdown := ⟨c.remaining, false⟩

/-- One seconds boundary: the count decreases by one, or its last second ends and its expiry falls due (R79). -/
def Countdown.tick (c : Countdown) : Countdown :=
  if c.remaining ≤ 1 then ⟨c.remaining, true⟩ else ⟨c.remaining - 1, c.due⟩

def Lease.kind : Lease → LeaseKind
  | .timed _ _ => .timed
  | .permanent => .permanent

def Lease.frozen : Lease → Lease
  | .timed g r => .timed g r.frozen
  | .permanent => .permanent

/-- Lease remaining as replies give it: 0 for PERMANENT (R84). -/
def Lease.remainingField : Lease → Nat
  | .timed _ r => r.remaining
  | .permanent => 0

/-- Lease granted as replies give it: 0 for PERMANENT (R84). -/
def Lease.grantedField : Lease → Nat
  | .timed g _ => g
  | .permanent => 0

/-- A TIMED lease granted for `n` seconds: both fields together (R16, R82). -/
def Lease.grant (n : Nat) : Lease := .timed n (Countdown.fresh n)

/-- The lease a fresh entry into BOUND gives: PERMANENT for a permanent reservation, else the default lease (R12). -/
def State.freshLease (s : State) (reserved : Bool) (kind : LeaseKind) : Lease :=
  if reserved && decide (kind = .permanent) then .permanent else .grant s.policy.defaultLease

/-- The state a record is in (R1). -/
def Binding.state : Binding → BindingState
  | .free => .free
  | .reserved _ => .reserved
  | .offered _ _ _ => .offered
  | .bound _ _ _ _ => .bound
  | .held _ _ => .held
  | .contested _ _ _ _ _ _ => .contested

/-- "bound" in the sense of section 2.1.1: BOUND or CONTESTED. -/
def Binding.isBound : Binding → Bool
  | .bound _ _ _ _ => true
  | .contested _ _ _ _ _ _ => true
  | .free | .reserved _ | .offered _ _ _ | .held _ _ => false

/-- The reserved attribute (R2, R15). -/
def Binding.reservedYes : Binding → Bool
  | .reserved _ => true
  | .offered _ (.reserved _) _ => true
  | .offered _ .free _ | .offered _ .held _ => false
  | .bound _ _ r _ => r
  | .contested _ _ r _ _ _ => r
  | .free | .held _ _ => false

/-- The identity of the record; the incumbent's in CONTESTED (R2). -/
def Binding.identity? : Binding → Option Identity
  | .free => none
  | .reserved r => some r.identity
  | .offered h _ _ => some h.identity
  | .bound h _ _ _ => some h.identity
  | .held former _ => former.map (·.identity)
  | .contested h _ _ _ _ _ => some h.identity

/-- The challenger identity (R2). -/
def Binding.challenger? : Binding → Option Identity
  | .contested _ _ _ _ c _ => some c.identity
  | .free | .reserved _ | .offered _ _ _ | .bound _ _ _ _ | .held _ _ => none

/-- X stands in the binding: as its identity or as its challenger (R6). -/
def Binding.stands (x : Identity) (b : Binding) : Bool :=
  decide (b.identity? = some x ∨ b.challenger? = some x)

/-- The first address, ascending, whose binding `p` holds of. -/
def State.findBinding (p : Binding → Bool) (s : State) : Option Addr :=
  allAddrs.find? (fun a => p (s.binding a))

/-- The number of bindings `p` holds of. -/
def State.countBindings (p : Binding → Bool) (s : State) : Nat :=
  allAddrs.countP (fun a => p (s.binding a))

/-- The count of OFFERED bindings (R10, R66). -/
def State.offeredCount (s : State) : Nat :=
  s.countBindings (fun b => decide (b.state = .offered))

/-- The identity is in the barred set (R74). -/
def State.isBarred (x : Identity) (s : State) : Bool := s.barred.contains x

/-- The identity has an admission entry (R69). -/
def State.hasEntry (x : Identity) (s : State) : Bool := s.admission.any (fun e => decide (e.identity = x))

def State.entryOf (x : Identity) (s : State) : Option AdmissionEntry :=
  s.admission.find? (fun e => decide (e.identity = x))

/-- The identity's entry, if any, leaves the admission queue; the others keep their order (R69). -/
def State.removeEntry (x : Identity) (s : State) : State :=
  { s with admission := s.admission.filter (fun e => decide (e.identity ≠ x)) }

/-- The identity joins the barred set, which has no duplicates (R74). -/
def State.addBarred (x : Identity) (s : State) : State :=
  if s.isBarred x then s
  else { s with barred := insertBefore (fun y => decide (identityKey x < identityKey y)) x s.barred }

/-! ### The two address queues (section 1.4) -/

def dropAddr (a : Addr) (q : List Addr) : List Addr := q.filter (fun x => decide (x ≠ a))

/-- The address leaves whichever queue holds it, from the place where it stands (R21, R23). -/
def State.leaveQueues (a : Addr) (s : State) : State :=
  { s with
    freeQueue := dropAddr a s.freeQueue
    holdQueue := dropAddr a s.holdQueue
    boundary :=
      { s.boundary with
        lapsed := dropAddr a s.boundary.lapsed
        expired := dropAddr a s.boundary.expired
        others := dropAddr a s.boundary.others
        entered := dropAddr a s.boundary.entered } }

/-- How an address joins the free queue: the places of R7, and those of R20 for the expiries of one seconds boundary. -/
inductive FreePlace
  /-- the head (R7) -/
  | head
  /-- the tail (R7) -/
  | tail
  /-- a lapsed offer of origin FREE (R20) -/
  | lapse
  /-- an expired hold (R20) -/
  | holdExpiry
  /-- a lease expiry, or the lapse of an offer of origin HELD, with a hold period of 0 (R20) -/
  | otherExpiry
  deriving DecidableEq, Repr

/-- Whether `x` stands behind `a` in the hold queue as the boundary found it. -/
def Boundary.behind (bd : Boundary) (a x : Addr) : Bool :=
  ((bd.holds.dropWhile (fun y => decide (y ≠ a))).drop 1).contains x

/-- The address joins the free queue. Lapsed offers of one boundary stand at the head in ascending order, ahead of every
address already there; expired holds join the tail in their hold-queue order; other tail joins of the boundary come after
those, in ascending order (R20). Where a command's address joins at the head between two lapses of one boundary, or at the
tail between two expiries of which R20 puts the later one ahead, R7 and R20 cannot both place all three: that the later lapse
or expiry then stands ahead of the command's address is the model's choice (log 17). -/
def State.joinFree (p : FreePlace) (a : Addr) (s : State) : State :=
  match p with
  | .head => { s with freeQueue := a :: s.freeQueue }
  | .tail => { s with freeQueue := s.freeQueue ++ [a] }
  | .lapse =>
    { s with
      freeQueue := insertBefore (fun x => !(s.boundary.lapsed.contains x && decide (x < a))) a s.freeQueue
      boundary := { s.boundary with lapsed := a :: s.boundary.lapsed } }
  | .holdExpiry =>
    { s with
      freeQueue := insertBefore
        (fun x => s.boundary.others.contains x || (s.boundary.expired.contains x && s.boundary.behind a x)) a s.freeQueue
      boundary := { s.boundary with expired := a :: s.boundary.expired } }
  | .otherExpiry =>
    { s with
      freeQueue := insertBefore (fun x => s.boundary.others.contains x && decide (a < x)) a s.freeQueue
      boundary := { s.boundary with others := a :: s.boundary.others } }

/-- The address joins the tail of the hold queue; addresses that enter HELD by expiries of one boundary join in ascending
order of address (R22). Where a command enters HELD between two of them, the order of entry and the ascending order cannot both
hold: that an expiry of a lower address then stands ahead of the earlier expiry, and so of the command's address, is the
model's choice (log 17). -/
def State.joinHold (atBoundary : Bool) (a : Addr) (s : State) : State :=
  if atBoundary then
    { s with
      holdQueue := insertBefore (fun x => s.boundary.entered.contains x && decide (a < x)) a s.holdQueue
      boundary := { s.boundary with entered := a :: s.boundary.entered } }
  else { s with holdQueue := s.holdQueue ++ [a] }

/-! ### Group memberships (chapter 7) -/

def GroupRecord.members : GroupRecord → List Addr
  | .unused => []
  | .opened _ _ m => m

def GroupRecord.drop (a : Addr) : GroupRecord → GroupRecord
  | .unused => .unused
  | .opened l p m => .opened l p (dropAddr a m)

/-- The groups whose member list holds the address, ascending (R143). -/
def State.groupsOf (s : State) (a : Addr) : List GroupNo :=
  allGroups.filter (fun g => (s.group g).members.contains a)

/-- The member entries an address occupies. -/
def State.entriesOf (s : State) (a : Addr) : Nat :=
  (allGroups.map (fun g => (s.group g).members.count a)).sum

/-- The group unit drops the address from every group and returns its entries to the pool (R152). -/
def State.dropMember (a : Addr) (s : State) : State :=
  { s with groups := s.groups.map (GroupRecord.drop a), poolFree := s.poolFree + s.entriesOf a }

/-! ### State entries (section 1.2) -/

/-- The binding goes to FREE (R7): every field is cleared, memberships are dropped, the address leaves the hold queue and
joins the free queue. -/
def State.goFree (p : FreePlace) (a : Addr) (s : State) : State :=
  (((s.setBinding a .free).dropMember a).leaveQueues a).joinFree p a

/-- The binding enters HELD with the hold period as it stands (R8), at the tail of the hold queue. -/
def State.enterHold (former : Option Holder) (atBoundary : Bool) (a : Addr) (s : State) : State :=
  ((s.setBinding a (.held former (Countdown.fresh s.policy.holdPeriod))).leaveQueues a).joinHold atBoundary a

/-- The place at the tail of the free queue for an entry that a hold period of 0 turns away from HELD. -/
def tailPlace (atBoundary : Bool) : FreePlace := if atBoundary then .otherExpiry else .tail

/-- The binding goes to HELD with identity, or to FREE at the tail when the hold period is 0 (R8). -/
def State.goHeldWith (h : Holder) (atBoundary : Bool) (a : Addr) (s : State) : State :=
  if s.policy.holdPeriod = 0 then s.goFree (tailPlace atBoundary) a else s.enterHold (some h) atBoundary a

/-- The binding goes to HELD anonymous, or to FREE at the tail when the hold period is 0 (R8). -/
def State.goHeldAnonymous (a : Addr) (s : State) : State :=
  if s.policy.holdPeriod = 0 then s.goFree .tail a else (s.dropMember a).enterHold none false a

/-- The binding enters RESERVED (R13): memberships are dropped and the address leaves any queue. -/
def State.goReserved (r : Reservation) (a : Addr) (s : State) : State :=
  ((s.setBinding a (.reserved r)).dropMember a).leaveQueues a

/-- A HELD binding with identity is made anonymous: memberships are dropped; the hold remaining and the place in the hold
queue are kept (R9). -/
def State.makeAnonymous (a : Addr) (s : State) : State :=
  match s.binding a with
  | .held (some _) r => (s.setBinding a (.held none r)).dropMember a
  | .held none _ | .free | .reserved _ | .offered _ _ _ | .bound _ _ _ _ | .contested _ _ _ _ _ _ => s

/-- The reservation a departure of a reserved binding leads to: it keeps identity, class, tag and lease kind (R13). -/
def Holder.reservation (h : Holder) (k : LeaseKind) : Reservation := ⟨h.identity, h.cls, h.tag, k⟩

/-- RELEASE and lease expiry of a BOUND binding: RESERVED when the reserved attribute is yes, else HELD with identity or
FREE (R86, R88). -/
def State.giveUp (h : Holder) (l : Lease) (reserved : Bool) (atBoundary : Bool) (a : Addr) (s : State) : State :=
  if reserved then s.goReserved (h.reservation l.kind) a else s.goHeldWith h atBoundary a

/-- EVICT, BAR and keep NEITHER: RESERVED when the reserved attribute is yes, else HELD anonymous or FREE
(R76, R91, R122). -/
def State.expel (h : Holder) (l : Lease) (reserved : Bool) (a : Addr) (s : State) : State :=
  if reserved then s.goReserved (h.reservation l.kind) a else s.goHeldAnonymous a

/-- An offer is made to the holder: the binding goes to OFFERED with the offer window as it stands, the address leaves
whichever queue held it (R10), and the identity's admission entry is removed (R69). -/
def State.makeOffer (h : Holder) (o : Origin) (a : Addr) (s : State) : State :=
  ((s.setBinding a (.offered h o (Countdown.fresh s.policy.offerWindow))).leaveQueues a).removeEntry h.identity

/-- The offer lapses, or START withdraws it (R11, second column); `free` is the place of an address of origin FREE. -/
def State.returnOffer (h : Holder) (o : Origin) (free : FreePlace) (atBoundary : Bool) (a : Addr) (s : State) : State :=
  match o with
  | .free => s.goFree free a
  | .held => s.goHeldWith h atBoundary a
  | .reserved k => s.goReserved (h.reservation k) a

/-- EVICT or BAR withdraws the offer (R11, third column). -/
def State.revokeOffer (h : Holder) (o : Origin) (a : Addr) (s : State) : State :=
  match o with
  | .free => s.goFree .head a
  | .held => s.goHeldAnonymous a
  | .reserved k => s.goReserved (h.reservation k) a

/-- The binding enters BOUND without last sequence or cached reply; the address leaves the queue it stood in (R12).
Memberships are not touched here. -/
def State.enterBound (h : Holder) (l : Lease) (reserved : Bool) (a : Addr) (s : State) : State :=
  (s.setBinding a (.bound h l reserved none)).leaveQueues a

/-- The contest is settled for the incumbent with a fresh lease (R120, R123, R76): identity, class, tag, segment and
memberships are kept. -/
def State.keepIncumbent (h : Holder) (l : Lease) (reserved : Bool) (a : Addr) (s : State) : State :=
  s.enterBound h (s.freshLease reserved l.kind) reserved a

/-- The challenger as the holder of the binding: the tag is absent, because a CLAIM carries none (R59, R121). -/
def Challenger.asHolder (c : Challenger) : Holder := ⟨c.identity, c.cls, [], c.segment⟩

/-- The contest is settled for the challenger with a fresh lease: memberships are dropped, the reserved attribute stays
(R59, R76, R121). -/
def State.keepChallenger (c : Challenger) (l : Lease) (reserved : Bool) (a : Addr) (s : State) : State :=
  (s.enterBound c.asHolder (s.freshLease reserved l.kind) reserved a).dropMember a

/-- The challenger's ASK: the incumbent's lease, last sequence and cached reply resume (R12, R58). -/
def State.resumeIncumbent (h : Holder) (l : Lease) (reserved : Bool) (r : Option Replay) (a : Addr) (s : State) : State :=
  s.setBinding a (.bound h l reserved r)

/-- The address R24 chooses for a newcomer: the head of the free queue, else the head of the hold queue. -/
def State.newcomerAddr (s : State) : Option Addr :=
  match s.freeQueue with
  | a :: _ => some a
  | [] => s.holdQueue.head?

/-- The offer to an identity that stands in no RESERVED or HELD binding: an address of the hold queue is reclaimed first,
which makes it anonymous; the origin is FREE (R24). -/
def State.offerNewcomer (h : Holder) (a : Addr) (s : State) : State :=
  (s.makeAnonymous a).makeOffer h .free a

/-! ### Sequence state (R18, R43) -/

/-- Last sequence and cached reply are written together, when the binding is still BOUND or CONTESTED (R43, R44). -/
def State.cacheReply (a : Addr) (r : Replay) (s : State) : State :=
  match s.binding a with
  | .bound h l v _ => s.setBinding a (.bound h l v (some r))
  | .contested h l v _ c k => s.setBinding a (.contested h l v (some r) c k)
  | .free | .reserved _ | .offered _ _ _ | .held _ _ => s

/-- The last sequence and cached reply of a binding. -/
def Binding.replay? : Binding → Option Replay
  | .bound _ _ _ r => r
  | .contested _ _ _ r _ _ => r
  | .free | .reserved _ | .offered _ _ _ | .held _ _ => none

/-! ### Transmit queues (sections 2.6 and 8.4) -/

def LineState.isDisabled : LineState → Bool
  | .disabled => true
  | .idle | .receiving _ | .waitGap | .transmitting _ | .backoff => false

/-- The segment is enabled: in any state but DISABLED (R155). -/
def State.enabled (s : State) (seg : Segment) : Bool := !(s.line seg).line.isDisabled

/-- WAIT-GAP when the transmit queue still holds a frame, IDLE when it is empty (R155). -/
def restState (q : List QueuedFrame) : LineState := if q.isEmpty then .idle else .waitGap

/-- A frame joins the tail of the queue. In IDLE the controller goes to WAIT-GAP, or sends at once when the line has been
idle for 4 character times (R155, R165). -/
def Controller.joinQueue (f : QueuedFrame) (c : Controller) : Controller :=
  match c.line with
  | .idle =>
    if Config.transmitIdle ≤ c.idle then { c with queue := c.queue ++ [f], line := .transmitting false, idle := 0 }
    else { c with queue := c.queue ++ [f], line := .waitGap }
  | .disabled | .receiving _ | .waitGap | .transmitting _ | .backoff => { c with queue := c.queue ++ [f] }

def QueuedFrame.isNotice (f : QueuedFrame) : Bool := decide (f.cls = .notice)

/-- The queue without its oldest notice. -/
def dropOldestNotice : List QueuedFrame → List QueuedFrame
  | [] => []
  | f :: q => if f.isNotice then q else f :: dropOldestNotice q

/-- The oldest notice is removed to make room for a reply (R50). When it is the head, the next frame becomes the head with
a collision count of 0: while TRANSMITTING the character in progress completes (the frame is cut off), in WAIT-GAP or
BACKOFF the controller goes to WAIT-GAP or IDLE, and while RECEIVING it goes on receiving (R164). -/
def Controller.removeNotice (c : Controller) : Controller :=
  match c.queue with
  | [] => c
  | f :: q =>
    if f.isNotice then
      match c.line with
      | .transmitting _ => { c with queue := q, collisions := 0, line := .transmitting true }
      | .waitGap | .backoff => { c with queue := q, collisions := 0, line := restState q }
      | .disabled | .idle | .receiving _ => { c with queue := q, collisions := 0 }
    else { c with queue := f :: dropOldestNotice q }

/-- A reply is handed to the transmit queue of its segment of arrival (R50). -/
def State.handReply (seg : Segment) (f : Frame) (s : State) : State :=
  let c := s.line seg
  if c.line.isDisabled then s
  else if c.queue.length < Config.transmitPlaces then s.setLine seg (c.joinQueue ⟨.reply, f⟩)
  else if c.queue.any QueuedFrame.isNotice then
    (s.setLine seg (c.removeNotice.joinQueue ⟨.reply, f⟩)).setFactor .noticeDropped
  else s

/-- A notice is handed to the transmit queue of a segment (R51). -/
def State.handNotice (seg : Segment) (f : Frame) (s : State) : State :=
  let c := s.line seg
  if !c.line.isDisabled && decide (c.queue.length < Config.transmitPlaces) then
    s.setLine seg (c.joinQueue ⟨.notice, f⟩)
  else s.setFactor .noticeDropped

/-- A notice for all stations or a group: one copy to each segment that is enabled (R49). -/
def State.broadcast (f : Frame) (s : State) : State :=
  let s1 := if s.enabled .a then s.handNotice .a f else s
  if s.enabled .b then s1.handNotice .b f else s1

/-- A notice frame: source 0xFE, sequence 0 (R47). -/
def noticeFrame (destination kind : Byte) (body : List Byte) : Frame :=
  ⟨destination, directoryAddress, kind, 0, body⟩

def recallNotice (window : Nat) : Frame := noticeFrame allStations kindRecall [BitVec.ofNat 8 window]

def vacateNotice (a : Addr) (x : Identity) (r : VacateReason) : Frame :=
  noticeFrame (addrByte a) kindVacate (identityBytes x ++ [r.code])

def groupClosedNotice (g : GroupNo) : Frame := noticeFrame (groupAddress g) kindGroupClosed [groupByte g]

/-- VACATE to a party on the segment recorded for it (R48). -/
def State.sendVacate (a : Addr) (x : Identity) (seg : Segment) (r : VacateReason) (s : State) : State :=
  s.handNotice seg (vacateNotice a x r)

/-! ### Listings (section 6.2) -/

/-- A frame is a LISTING frame whose send end its unit waits for. -/
def QueuedFrame.isAwaited (f : QueuedFrame) : Bool := decide (f.cls = .listing true)

def QueuedFrame.disown (f : QueuedFrame) : QueuedFrame :=
  match f.cls with
  | .listing _ => { f with cls := .listing false }
  | .reply | .notice => f

/-- The unit waits for no send end of a copy already queued; the copies stay in the queue and are sent (R134, R137). -/
def State.disownCopies (seg : Segment) (s : State) : State :=
  s.setLine seg { s.line seg with queue := (s.line seg).queue.map QueuedFrame.disown }

/-- The listing of a segment is abandoned or completes: the unit discards its fields and becomes idle (R136, R137). -/
def State.endListing (seg : Segment) (s : State) : State :=
  (s.setListing seg none).disownCopies seg

/-- The send end of the send awaited: the acknowledgement timer is started (R133). -/
def State.sendEnd (seg : Segment) (s : State) : State :=
  match s.listing seg with
  | none => s
  | some l => s.setListing seg (some { l with timer := some Config.ackTimeout })

/-- END in bit 0, MOVED in bit 1, EMPTY in bit 2 (R197). -/
def BuiltFrame.flagsByte (f : BuiltFrame) : Byte :=
  0#5 ++ (BitVec.ofBool f.empty ++ (BitVec.ofBool f.moved ++ BitVec.ofBool f.endFlag))

/-- One entry, 9 bytes (R197). -/
def ListingEntry.bytes (e : ListingEntry) : List Byte :=
  addrByte e.address :: e.state.code :: e.cls :: identityBytes e.identity

/-- The body of a LISTING frame (R197). -/
def BuiltFrame.body (f : BuiltFrame) : List Byte :=
  BitVec.ofNat 8 f.index :: f.flagsByte :: (le16 f.generation.toNat ++ f.entries.flatMap ListingEntry.bytes)

/-- The LISTING frame that goes to the requester (R52, R133). -/
def Listing.frame (l : Listing) : Frame :=
  ⟨addrByte l.requester, directoryAddress, kindListing, 0#4 ++ l.sequence, l.built.body⟩

/-- One send of the built frame is handed to the queue; when it is dropped there, that is its send end (R52, R133). -/
def State.sendListing (seg : Segment) (s : State) : State :=
  match s.listing seg with
  | none => s
  | some l =>
    let c := s.line seg
    if !c.line.isDisabled && decide (c.queue.length < Config.transmitPlaces) then
      (s.setListing seg (some { l with timer := none })).setLine seg (c.joinQueue ⟨.listing true, l.frame⟩)
    else s.sendEnd seg

/-- The filter matches the class; 0xFF matches every class (R128, R130). -/
def classMatches (filter cls : Byte) : Bool := decide (filter = anyClass ∨ cls = filter)

/-- The entry of a binding that FIND and LIST find: BOUND or CONTESTED with a matching class, the incumbent's where
CONTESTED (R128, R132). -/
def listingEntry? (filter : Byte) (a : Addr) : Binding → Option ListingEntry
  | .bound h _ _ _ => if classMatches filter h.cls then some ⟨a, .bound, h.cls, h.identity⟩ else none
  | .contested h _ _ _ _ _ => if classMatches filter h.cls then some ⟨a, .contested, h.cls, h.identity⟩ else none
  | .free | .reserved _ | .offered _ _ _ | .held _ _ => none

/-- Every match from a start address (1 to 96) up to 96, ascending (R128, R132). -/
def State.matchesFrom (s : State) (filter : Byte) (start : Nat) : List ListingEntry :=
  (allAddrs.filter (fun a => decide (start ≤ a.val + 1))).filterMap (fun a => listingEntry? filter a (s.binding a))

/-- The listing unit builds the frame of an index (R132). END is set when nothing matches above the entries taken, which
is always so for fewer than four; MOVED is set on an END frame when the generation has moved since the start. -/
def State.buildFrame (s : State) (filter : Byte) (next index : Nat) (startGeneration : BitVec 32) : BuiltFrame :=
  let found := s.matchesFrom filter next
  let entries := found.take Config.listingEntries
  let last := decide (found.length ≤ Config.listingEntries)
  { index := index
    endFlag := last
    moved := last && decide (s.generation ≠ startGeneration)
    empty := entries.isEmpty
    generation := s.generation.extractLsb' 0 16
    entries := entries }

/-- The next address after a frame: one more than its fourth entry when it is not the last, else unchanged (R132). -/
def nextAfter (f : BuiltFrame) (next : Nat) : Nat :=
  if f.endFlag then next
  else match f.entries.getLast? with
    | none => next
    | some e => e.address.val + 2

/-- LIST starts a listing in the idle unit: frame 0 is built and sent (R131). -/
def State.startListing (seg : Segment) (requester : Addr) (sequence : BitVec 4) (filter : Byte) (start : Nat)
    (s : State) : State :=
  let f := s.buildFrame filter start 0 s.generation
  (s.setListing seg (some
    { requester := requester, sequence := sequence, filter := filter, next := nextAfter f start,
      startGeneration := s.generation, built := f, sends := 1, timer := none })).sendListing seg

/-- An accepted acknowledgement of a frame that is not the last: the next frame is built and sent (R134). -/
def State.advanceListing (seg : Segment) (l : Listing) (s : State) : State :=
  let f := s.buildFrame l.filter l.next (l.built.index + 1) l.startGeneration
  ((s.disownCopies seg).setListing seg
    (some { l with built := f, next := nextAfter f l.next, sends := 1, timer := none })).sendListing seg

/-! ### Record changes (section 1.5) -/

/-- What of a binding record counts for a record change (R25): everything but the running counts, the lease lengths (a
grant is named apart) and the sequence state. -/
def Binding.record : Binding → Binding
  | .free => .free
  | .reserved r => .reserved r
  | .offered h o _ => .offered h o ⟨0, false⟩
  | .bound h l v _ => .bound h (match l with | .timed _ _ => .timed 0 ⟨0, false⟩ | .permanent => .permanent) v none
  | .held former _ => .held former ⟨0, false⟩
  | .contested h l v _ c _ =>
    .contested h (match l with | .timed _ _ => .timed 0 ⟨0, false⟩ | .permanent => .permanent) v none c none

/-- What of a group record counts for a record change: opened or not, and the member list (R25, R144). -/
def GroupRecord.record : GroupRecord → Option (List Addr)
  | .unused => none
  | .opened _ _ m => some m

/-- One application changed the binding record of `a`: its record, a lease grant, or its memberships (R25). -/
def bindingChanged (before after : State) (granted : List Addr) (a : Addr) : Bool :=
  granted.contains a || decide ((before.binding a).record ≠ (after.binding a).record)
    || decide (before.groupsOf a ≠ after.groupsOf a)

def groupChanged (before after : State) (g : GroupNo) : Bool :=
  decide ((before.group g).record ≠ (after.group g).record)

/-- The records one application changed, each once however many of its fields changed (R25). -/
def changedRecords (before after : State) (granted : List Addr) : List Mark :=
  (allAddrs.filter (bindingChanged before after granted)).map .addr
    ++ (allGroups.filter (groupChanged before after)).map .group

/-- One step of the generation number: 4294967295 steps to 1 (R26). -/
def nextGeneration (g : BitVec 32) : BitVec 32 := if g = BitVec.allOnes 32 then 1 else g + 1

/-- The byte of a mark, which is also its place in the change set's order (R27, R193). -/
def Mark.code : Mark → Byte
  | .addr a => addrByte a
  | .group g => groupAddress g

/-- A mark is put into the change set, which is kept ascending and holds none twice (R27). -/
def putMark (m : Mark) : List Mark → List Mark
  | [] => [m]
  | x :: xs => if x = m then x :: xs else if m.code.toNat < x.code.toNat then m :: x :: xs else x :: putMark m xs

/-- The generation number steps once for each record changed, and each is marked (R26, R27). -/
def State.recordChanges (changed : List Mark) (s : State) : State :=
  { s with
    generation := iterate nextGeneration changed.length s.generation
    marks := changed.foldl (fun ms m => putMark m ms) s.marks }

/-- A listing whose requester's binding leaves BOUND and CONTESTED is abandoned in the same application (R137, R138). -/
def State.abandonLeft (s : State) (before : State) (seg : Segment) : State :=
  match s.listing seg with
  | none => s
  | some l =>
    if (before.binding l.requester).isBound && !(s.binding l.requester).isBound then s.endListing seg else s

/-- The end of one application that took the state from `before` to `after`: its record changes are counted and marked,
and listings that lost their requester are abandoned. `granted` names the bindings to which it granted a lease. -/
def commit (before : State) (granted : List Addr) (after : State) : State :=
  ((after.recordChanges (changedRecords before after granted)).abandonLeft before .a).abandonLeft before .b

end Sys2Proof.Machine
end

