-- ==== Sys2Proof/Machine/Operands.lean ====
section
/-! DEFINITION. Every operand form: the bodies station requests must have (R34), the parameters host commands must have
(R181 to R184), and the frame a receive slot holds (R195). Each reading gives none for a body or parameter list of a
wrong length or with a field out of its range. -/

namespace Sys2Proof.Machine

/-! ### Header fields (R31, R195, R196) -/

/-- The sequence: the low four bits of header byte 3 (R196). -/
def Frame.sequence (f : Frame) : BitVec 4 := f.control.extractLsb' 0 4

/-- The five header bytes (R195). -/
def Frame.header (f : Frame) : List Byte :=
  [f.destination, f.source, f.kind, f.control, BitVec.ofNat 8 f.body.length]

/-- Every byte of the frame as sent: header, body and CRC-16, low byte first (R195, R196). -/
def Frame.bytes (f : Frame) : List Byte :=
  f.header ++ f.body ++ crc16Bytes (f.header ++ f.body)

/-! ### Station request bodies (R34) -/

/-- ASK: identity, class, tag length, tag. -/
def askBody? (body : List Byte) : Option (Identity × Byte × Tag) :=
  match identityOf? (body.take 6), body.drop 6 with
  | some x, c :: rest =>
    match tagOf? rest with
    | some t => if c = anyClass then none else some (x, c, t)
    | none => none
  | _, _ => none

/-- TAKE: identity, address. -/
def takeBody? (body : List Byte) : Option (Identity × Addr) :=
  match identityOf? (body.take 6), body.drop 6 with
  | some x, [b] =>
    match addrOf? b with
    | some a => some (x, a)
    | none => none
  | _, _ => none

/-- CLAIM: identity, class. -/
def claimBody? (body : List Byte) : Option (Identity × Byte) :=
  match identityOf? (body.take 6), body.drop 6 with
  | some x, [c] => if c = anyClass then none else some (x, c)
  | _, _ => none

/-- RENEW: nothing, or a two-byte requested lease; 0 stands for "absent" (R83 treats them alike). -/
def renewBody? : List Byte → Option Nat
  | [] => some 0
  | [lo, hi] => some (fromLe16 lo hi)
  | _ => none

/-- RELEASE: nothing. -/
def emptyBody? : List Byte → Option Unit
  | [] => some ()
  | _ => none

/-- RETAG: tag length, tag. -/
def retagBody? (body : List Byte) : Option Tag := tagOf? body

/-- RESOLVE: identity. -/
def resolveBody? (body : List Byte) : Option Identity := identityOf? body

/-- REVERSE: address. -/
def reverseBody? : List Byte → Option Addr
  | [b] => addrOf? b
  | _ => none

/-- FIND and LIST: class filter, start address. -/
def searchBody? : List Byte → Option (Byte × Addr)
  | [f, b] => (addrOf? b).map (fun a => (f, a))
  | _ => none

/-- JOIN, LEAVE and MEMBERS: group number. -/
def groupBody? : List Byte → Option GroupNo
  | [b] => groupOf? b
  | _ => none

/-! ### Host command parameters -/

def oneByte? : List Byte → Option Byte
  | [b] => some b
  | _ => none

def addrParam? : List Byte → Option Addr
  | [b] => addrOf? b
  | _ => none

def groupParam? : List Byte → Option GroupNo
  | [b] => groupOf? b
  | _ => none

def segmentParam? : List Byte → Option Segment
  | [b] => segmentOf? b
  | _ => none

/-- An identity parameter: six bytes, neither all 0x00 nor all 0xFF. -/
def identityParam? (ps : List Byte) : Option Identity := identityOf? ps

/-- CONFIGURE-SEGMENT: segment, baud, parity, stop bits. -/
def configureParams? : List Byte → Option (Segment × Format)
  | [g, b, p, t] =>
    match segmentOf? g, baudOf? b, parityOf? p, stopBitsOf? t with
    | some seg, some baud, some parity, some stop => some (seg, ⟨baud, parity, stop⟩)
    | _, _, _, _ => none
  | _ => none

/-- CLEAR-SEGMENT-FLAGS: segment, flags to clear. -/
def clearFlagsParams? : List Byte → Option (Segment × BitVec 6)
  | [g, f] =>
    match segmentOf? g, segmentFlagsOf? f with
    | some seg, some flags => some (seg, flags)
    | _, _ => none
  | _ => none

/-- Every policy parameter in its range, and the maximum lease not below the default (R184). -/
def Policy.inRange (p : Policy) : Bool :=
  decide (1 ≤ p.offerLimit ∧ p.offerLimit ≤ 8 ∧ 1 ≤ p.offerWindow ∧ p.offerWindow ≤ 60
    ∧ 10 ≤ p.defaultLease ∧ p.defaultLease ≤ 65535 ∧ 10 ≤ p.maximumLease ∧ p.maximumLease ≤ 65535
    ∧ p.holdPeriod ≤ 3600 ∧ 5 ≤ p.admissionWindow ∧ p.admissionWindow ≤ 600 ∧ p.contestWindow ≤ 3600
    ∧ p.defaultLease ≤ p.maximumLease)

/-- The eight policy parameters in 13 bytes: three of one byte, then five of two (R184). -/
def policyParams? : List Byte → Option Policy
  | [m, lim, win, d0, d1, x0, x1, h0, h1, a0, a1, c0, c1] =>
    match admissionModeOf? m with
    | some mode =>
      let p : Policy :=
        { mode := mode, offerLimit := lim.toNat, offerWindow := win.toNat, defaultLease := fromLe16 d0 d1,
          maximumLease := fromLe16 x0 x1, holdPeriod := fromLe16 h0 h1, admissionWindow := fromLe16 a0 a1,
          contestWindow := fromLe16 c0 c1 }
      if p.inRange then some p else none
    | none => none
  | _ => none

/-- START: a recall window of 0 to 60 (R99). -/
def startParam? : List Byte → Option Nat
  | [w] => if w.toNat ≤ 60 then some w.toNat else none
  | _ => none

/-- CLEAR: keep reservations, keep groups. -/
def clearParams? : List Byte → Option (Bool × Bool)
  | [r, g] =>
    match yesNoOf? r, yesNoOf? g with
    | some kr, some kg => some (kr, kg)
    | _, _ => none
  | _ => none

/-- RESERVE: address, identity, class, permanent, tag (R94). -/
def reserveParams? : List Byte → Option (Addr × Reservation)
  | b :: rest =>
    match addrOf? b, identityOf? (rest.take 6), rest.drop 6 with
    | some a, some x, c :: p :: t =>
      match yesNoOf? p, tagOf? t with
      | some permanent, some tag =>
        if c = anyClass then none
        else some (a, ⟨x, c, tag, if permanent then .permanent else .timed⟩)
      | _, _ => none
    | _, _, _ => none
  | [] => none

/-- MODIFY: address, class, lease choice, lease length, tag; the length is examined with TIMED only (R93, R182). -/
def modifyParams? : List Byte → Option (Addr × Byte × LeaseChoice × Nat × Tag)
  | b :: c :: k :: lo :: hi :: t =>
    match addrOf? b, leaseChoiceOf? k, tagOf? t with
    | some a, some choice, some tag =>
      let n := fromLe16 lo hi
      if c = anyClass then none
      else if choice = .timed ∧ n < 10 then none
      else some (a, c, choice, n, tag)
    | _, _, _ => none
  | _ => none

/-- RESOLVE-CONTEST: address, keep. -/
def resolveContestParams? : List Byte → Option (Addr × Keep)
  | [b, k] =>
    match addrOf? b, keepOf? k with
    | some a, some keep => some (a, keep)
    | _, _ => none
  | _ => none

/-- READ-ADMISSION: a position from 0 to 7 (R73). -/
def positionParam? : List Byte → Option Nat
  | [p] => if p.toNat < 8 then some p.toNat else none
  | _ => none

/-- READ-BARRED: a starting index from 0 to 15 (R74). -/
def barredIndexParam? : List Byte → Option Nat
  | [i] => if i.toNat < 16 then some i.toNat else none
  | _ => none

/-- DENY: identity, bar. -/
def denyParams? (ps : List Byte) : Option (Identity × Bool) :=
  match identityOf? (ps.take 6), ps.drop 6 with
  | some x, [b] => (yesNoOf? b).map (fun y => (x, y))
  | _, _ => none

/-- OPEN-GROUP: group, member limit of 1 to 12, join policy (R144). -/
def openGroupParams? : List Byte → Option (GroupNo × Nat × JoinPolicy)
  | [g, l, p] =>
    match groupOf? g, joinPolicyOf? p with
    | some group, some policy =>
      if 1 ≤ l.toNat ∧ l.toNat ≤ 12 then some (group, l.toNat, policy) else none
    | _, _ => none
  | _ => none

/-- ADD-MEMBER and REMOVE-MEMBER: group, address. -/
def memberParams? : List Byte → Option (GroupNo × Addr)
  | [g, b] =>
    match groupOf? g, addrOf? b with
    | some group, some a => some (group, a)
    | _, _ => none
  | _ => none

/-- CLEAR-FACTORS and SET-ENABLES: a factor field of two bytes (R191). -/
def factorParam? : List Byte → Option (BitVec 12)
  | [lo, hi] => factorFieldOf? lo hi
  | _ => none

/-- The commands without parameters. -/
def noParams? : List Byte → Option Unit
  | [] => some ()
  | _ => none

end Sys2Proof.Machine
end

