-- ==== Sys2Proof/Machine/Station.lean ====
section
/-! DEFINITION. What every station request passes through (chapter 2): the taking of a ready frame (R30), the source
tests (R32, R33), the retry test (R42), the body test (R34), the reply (R36, R37) and its caching (R43). -/

namespace Sys2Proof.Machine

/-- What the execution of a request comes to: the state it leaves (before record changes are counted), the status and
what follows it in the reply, and the bindings to which it granted a lease (R25). -/
structure Answer where
  state : State
  status : Status
  rest : List Byte := []
  granted : List Addr := []

/-- The reply to a request: kind + 0x80, from 0xFE to the request's source, with the low four bits of its sequence byte
(R36, R196). -/
def replyTo (f : Frame) (status : Status) (rest : List Byte) : Frame :=
  ⟨f.source, directoryAddress, replyKind f.kind, 0#4 ++ f.sequence, status.code :: rest⟩

/-- The identity a BADREQ answer carries: the first six body bytes as they arrived, when at least six arrived, for ASK,
TAKE and RESOLVE from 0x00 (R37) and for CLAIM (R105). -/
def badreqRest (f : Frame) : List Byte :=
  if (f.source = 0 ∧ (f.kind = kindAsk ∨ f.kind = kindTake ∨ f.kind = kindResolve)) ∨ f.kind = kindClaim then
    if 6 ≤ f.body.length then f.body.take 6 else []
  else []

/-- A BADREQ or UNKNOWN answer that touches no record and is not cached (R31 to R33). -/
def State.turnAway (seg : Segment) (f : Frame) (status : Status) (rest : List Byte) (s : State) : State :=
  s.handReply seg (replyTo f status rest)

/-- The directory engine takes the oldest ready frame of a segment when its kind is one `kindOk` holds of, and frees its
slot. In STOPPED the frame is discarded (R30); otherwise it is served. When no such frame stands ready, nothing
happens (log 1). -/
def State.takeFrame (kindOk : Byte → Bool) (seg : Segment) (serve : Frame → State → State) (s : State) : State :=
  if s.inReset.isSome then s
  else match (s.line seg).ready with
    | [] => s
    | f :: rest =>
      if kindOk f.kind then
        let s1 := s.setLine seg { s.line seg with ready := rest }
        if s1.phase.isStopped then s1 else serve f s1
      else s

/-- The kind test of one row. -/
def isKind (k : Byte) : Byte → Bool := fun x => decide (x = k)

/-- An executed request that takes no part in the sequence mechanism: the application ends and its reply is handed over. -/
def State.deliver (seg : Segment) (f : Frame) (r : Answer) (s : State) : State :=
  (commit s r.granted r.state).handReply seg (replyTo f r.status r.rest)

/-- An executed request from a bound source: last sequence and cached reply are written in the same application,
whatever the status (R43). -/
def State.deliverCached (seg : Segment) (f : Frame) (a : Addr) (r : Answer) (s : State) : State :=
  ((commit s r.granted r.state).cacheReply a ⟨f.sequence, replyKind f.kind, r.status, r.rest⟩).handReply seg
    (replyTo f r.status r.rest)

/-- The reply to a retry: the cached kind, status and body under the header of R36 (R42). -/
def retryReply (f : Frame) (r : Replay) : Frame :=
  ⟨f.source, directoryAddress, r.kind, 0#4 ++ f.sequence, r.status.code :: r.rest⟩

/-- The cached reply a request repeats, if it is a retry: one is present and its sequence is the request's (R42). -/
def State.retryOf (a : Addr) (f : Frame) (s : State) : Option Replay :=
  match (s.binding a).replay? with
  | none => none
  | some r => if r.sequence = f.sequence then some r else none

/-- A request of the Unaddressed class: source 0x00 only (R32). -/
def State.serveUnaddressed {α : Type} (parse : List Byte → Option α) (run : Segment → α → State → Answer) (seg : Segment)
    (f : Frame) (s : State) : State :=
  if f.source = 0 then
    match parse f.body with
    | none => s.turnAway seg f .badreq (badreqRest f)
    | some x => s.deliver seg f (run seg x s)
  else s.turnAway seg f .badreq (badreqRest f)

/-- A request from the short address `a` that takes part in the sequence mechanism: the bound-source test, the retry test,
the body test, and execution, in this order (R35). `after` is what the execution does once the reply has been handed
over. -/
def State.serveAddressed {α : Type} (parse : List Byte → Option α) (run : Segment → Addr → α → State → Answer)
    (after : Segment → Addr → α → State → State) (a : Addr) (seg : Segment) (f : Frame) (s : State) : State :=
  if (s.binding a).isBound then
    match s.retryOf a f with
    | some r => s.handReply seg (retryReply f r)
    | none =>
      match parse f.body with
      | none => s.deliverCached seg f a { state := s, status := .badreq, rest := badreqRest f }
      | some x =>
        let r := run seg a x s
        let s1 := s.deliverCached seg f a r
        if r.status = .ok then after seg a x s1 else s1
  else s.turnAway seg f .unknown []

/-- Nothing follows the reply. -/
def nothingAfter {α : Type} : Segment → Addr → α → State → State := fun _ _ _ s => s

/-- A request of the Bound class: source 1 to 96 (R32). -/
def State.serveBound {α : Type} (parse : List Byte → Option α) (run : Segment → Addr → α → State → Answer) (seg : Segment)
    (f : Frame) (s : State) : State :=
  match addrOf? f.source with
  | none => s.turnAway seg f .badreq (badreqRest f)
  | some a => s.serveAddressed parse run nothingAfter a seg f

/-- A request of the Either class: from 0x00 it is answered afresh each time, from 1 to 96 as a Bound one (R32, R41). -/
def State.serveEither {α : Type} (parse : List Byte → Option α) (run : α → State → Answer) (seg : Segment) (f : Frame)
    (s : State) : State :=
  if f.source = 0 then
    match parse f.body with
    | none => s.turnAway seg f .badreq (badreqRest f)
    | some x => s.deliver seg f (run x s)
  else s.serveBound parse (fun _ _ x s => run x s) seg f

/-- A request of the Claimant class: source 1 to 96 in any binding state; never a retry and never cached (R32, R45). -/
def State.serveClaimant {α : Type} (parse : List Byte → Option α) (run : Segment → Addr → α → State → Answer)
    (seg : Segment) (f : Frame) (s : State) : State :=
  match addrOf? f.source with
  | none => s.turnAway seg f .badreq (badreqRest f)
  | some a =>
    match parse f.body with
    | none => s.turnAway seg f .badreq (badreqRest f)
    | some x => s.deliver seg f (run seg a x s)

/-- A holder last heard on `seg` (R5). -/
def Holder.on (seg : Segment) (h : Holder) : Holder := { h with segment := seg }

end Sys2Proof.Machine
end

