-- ==== Sys2Proof/Machine/Admission.lean ====
section
/-! DEFINITION. ASK and TAKE (chapter 3) and CLAIM (section 5.2). -/

namespace Sys2Proof.Machine

/-! ### ASK -/

/-- The reply to an ASK whose offer stands at `a` (R64): X, address, lease to be granted, offer remaining. -/
def offerFields (x : Identity) (a : Addr) (lease : Lease) (remaining : Nat) : List Byte :=
  identityBytes x ++ (addrByte a :: le16 lease.grantedField) ++ [BitVec.ofNat 8 remaining]

/-- The lease a TAKE of an offer of this origin grants: PERMANENT for a permanent reservation, else the default lease
(R64, R67). -/
def State.offerLease (s : State) : Origin → Lease
  | .reserved k => s.freshLease true k
  | .free | .held => s.freshLease false .timed

/-- The reserved attribute of an OFFERED binding: yes exactly with origin RESERVED (R15). -/
def Origin.reservedYes : Origin → Bool
  | .reserved _ => true
  | .free | .held => false

def waitAnswer (x : Identity) (hint : Nat) (s : State) : Answer :=
  { state := s, status := .wait, rest := identityBytes x ++ [BitVec.ofNat 8 hint] }

/-- Cases 7, 8 and 12 meet the limit test before anything is chosen (R55). -/
def State.atOfferLimit (s : State) : Bool := decide (s.policy.offerLimit ≤ s.offeredCount)

/-- The answer that makes an offer at `a`; `s` is the state after the offer was made. -/
def offerMade (x : Identity) (a : Addr) (o : Origin) (s : State) : Answer :=
  { state := s, status := .ok, rest := offerFields x a (s.offerLease o) s.policy.offerWindow }

/-- An admission entry joins the tail of the queue with the admission window as it stands (R62, R69). -/
def State.addEntry (h : Holder) (s : State) : State :=
  { s with
    admission := s.admission ++
      [{ identity := h.identity, cls := h.cls, tag := h.tag, segment := h.segment,
         wait := Countdown.fresh s.policy.admissionWindow }] }

/-- The identity's entry takes the segment of its latest ASK; its class, tag, wait and place stay (R62). -/
def State.moveEntry (x : Identity) (seg : Segment) (s : State) : State :=
  { s with admission := s.admission.map (fun e => if e.identity = x then { e with segment := seg } else e) }

/-- Cases 10 and 11: a SUPERVISED ASK (R62). -/
def superviseAsk (h : Holder) (s : State) : Answer :=
  if s.hasEntry h.identity then waitAnswer h.identity 2 (s.moveEntry h.identity h.segment)
  else if s.admission.length < Config.admissionPlaces then
    waitAnswer h.identity 2 ((s.addEntry h).setFactor .admitPending)
  else waitAnswer h.identity 2 s

/-- Case 12: an offer from the free queue, or by reclaim, or FULL (R63). -/
def openAsk (h : Holder) (s : State) : Answer :=
  if s.atOfferLimit then waitAnswer h.identity 1 s
  else match s.newcomerAddr with
    | some a => offerMade h.identity a .free (s.offerNewcomer h a)
    | none => { state := s.setFactor .exhausted, status := .full, rest := identityBytes h.identity }

def isReservedFor (x : Identity) (b : Binding) : Bool :=
  match b with
  | .reserved r => decide (r.identity = x)
  | .free | .offered _ _ _ | .bound _ _ _ _ | .held _ _ | .contested _ _ _ _ _ _ => false

def isHeldBy (x : Identity) (b : Binding) : Bool :=
  match b with
  | .held (some h) _ => decide (h.identity = x)
  | .held none _ | .free | .reserved _ | .offered _ _ _ | .bound _ _ _ _ | .contested _ _ _ _ _ _ => false

def isOfferedTo (x : Identity) (b : Binding) : Bool :=
  match b with
  | .offered h _ _ => decide (h.identity = x)
  | .free | .reserved _ | .bound _ _ _ _ | .held _ _ | .contested _ _ _ _ _ _ => false

def isBoundTo (x : Identity) (b : Binding) : Bool :=
  match b with
  | .bound h _ _ _ => decide (h.identity = x)
  | .free | .reserved _ | .offered _ _ _ | .held _ _ | .contested _ _ _ _ _ _ => false

def isIncumbent (x : Identity) (b : Binding) : Bool :=
  match b with
  | .contested h _ _ _ _ _ => decide (h.identity = x)
  | .free | .reserved _ | .offered _ _ _ | .bound _ _ _ _ | .held _ _ => false

def isChallenger (x : Identity) (b : Binding) : Bool := decide (b.challenger? = some x)

/-- The address of a RESERVED or else a HELD binding of X, with the origin its offer takes (R61). -/
def State.ownAddr (x : Identity) (s : State) : Option (Addr × Origin) :=
  match s.findBinding (isReservedFor x) with
  | some a =>
    match s.binding a with
    | .reserved r => some (a, .reserved r.kind)
    | .free | .offered _ _ _ | .bound _ _ _ _ | .held _ _ | .contested _ _ _ _ _ _ => none
  | none => (s.findBinding (isHeldBy x)).map (fun a => (a, .held))

/-- Cases 7 to 12, where the ASK of a party to a contest goes on once the contest is settled (R54). -/
def continueAsk (h : Holder) (s : State) : Answer :=
  match s.ownAddr h.identity with
  | some (a, o) =>
    if s.atOfferLimit then waitAnswer h.identity 1 s
    else offerMade h.identity a o (s.makeOffer h o a)
  | none =>
    match s.policy.mode with
    | .closed => { state := s, status := .refused, rest := identityBytes h.identity }
    | .supervised => superviseAsk h s
    | .open_ => openAsk h s

/-- Case 3: ALREADY, with the segment written and the sequence state dropped (R57). -/
def alreadyAnswer (x : Identity) (a : Addr) (seg : Segment) (s : State) : Option Answer :=
  match s.binding a with
  | .bound h l v _ =>
    some { state := s.setBinding a (.bound (h.on seg) l v none), status := .already,
           rest := identityBytes x ++ (addrByte a :: le16 l.remainingField) }
  | .free | .reserved _ | .offered _ _ _ | .held _ _ | .contested _ _ _ _ _ _ => none

/-- Case 6: the same offer is sent again, with the segment written (R60). -/
def repeatAnswer (x : Identity) (a : Addr) (seg : Segment) (s : State) : Option Answer :=
  match s.binding a with
  | .offered h o r =>
    some { state := s.setBinding a (.offered (h.on seg) o r), status := .ok,
           rest := offerFields x a (s.offerLease o) r.remaining }
  | .free | .reserved _ | .bound _ _ _ _ | .held _ _ | .contested _ _ _ _ _ _ => none

/-- Case 4: the challenger withdraws (R58). -/
def State.withdrawChallenger (a : Addr) (s : State) : State :=
  match s.binding a with
  | .contested h l v r _ _ => s.resumeIncumbent h l v r a
  | .free | .reserved _ | .offered _ _ _ | .bound _ _ _ _ | .held _ _ => s

/-- Case 5: the incumbent withdraws in favour of the challenger (R59). -/
def State.withdrawIncumbent (a : Addr) (s : State) : State :=
  match s.binding a with
  | .contested _ l v _ c _ => s.keepChallenger c l v a
  | .free | .reserved _ | .offered _ _ _ | .bound _ _ _ _ | .held _ _ => s

/-- Cases 3 to 12 of R54, in order. -/
def decideAsk (h : Holder) (s : State) : Answer :=
  let x := h.identity
  match (s.findBinding (isBoundTo x)).bind (fun a => alreadyAnswer x a h.segment s) with
  | some r => r
  | none =>
    match s.findBinding (isChallenger x) with
    | some a => continueAsk h (s.withdrawChallenger a)
    | none =>
      match s.findBinding (isIncumbent x) with
      | some a => continueAsk h (s.withdrawIncumbent a)
      | none =>
        match (s.findBinding (isOfferedTo x)).bind (fun a => repeatAnswer x a h.segment s) with
        | some r => r
        | none => continueAsk h s

/-- The cases of R54 in order: RECALL answers WAIT with the recall remaining and a barred identity BARRED, before
anything else is looked at (R56). -/
def runAsk (seg : Segment) (body : Identity × Byte × Tag) (s : State) : Answer :=
  let h : Holder := ⟨body.1, body.2.1, body.2.2, seg⟩
  match s.phase with
  | .recall r => waitAnswer h.identity r.remaining s
  | .stopped | .running =>
    if s.isBarred h.identity then { state := s, status := .barred, rest := identityBytes h.identity }
    else decideAsk h s

/-- ASK (R54). -/
def execAsk (seg : Segment) (s : State) : Host.Outcome State Fault Refusal :=
  .next (s.takeFrame (isKind kindAsk) seg (State.serveUnaddressed askBody? runAsk seg))

/-! ### TAKE -/

/-- X, address, lease (R67). -/
def takeFields (x : Identity) (a : Addr) (lease : Nat) : List Byte :=
  identityBytes x ++ (addrByte a :: le16 lease)

def staleAnswer (x : Identity) (s : State) : Answer := { state := s, status := .stale, rest := identityBytes x }

/-- R67, in order: STALE in RECALL, the offer is taken, a repeat is answered again, STALE otherwise. -/
def runTake (seg : Segment) (body : Identity × Addr) (s : State) : Answer :=
  let x := body.1
  let a := body.2
  if s.phase.isRecall then staleAnswer x s
  else match s.binding a with
    | .offered h o _ =>
      if h.identity = x then
        let l := s.offerLease o
        { state := s.enterBound (h.on seg) l o.reservedYes a, status := .ok,
          rest := takeFields x a l.grantedField, granted := [a] }
      else staleAnswer x s
    | .bound h l v r =>
      if h.identity = x then
        { state := s.setBinding a (.bound (h.on seg) l v r), status := .ok, rest := takeFields x a l.remainingField }
      else staleAnswer x s
    | .free | .reserved _ | .held _ _ | .contested _ _ _ _ _ _ => staleAnswer x s

/-- TAKE (R67). -/
def execTake (seg : Segment) (s : State) : Host.Outcome State Fault Refusal :=
  .next (s.takeFrame (isKind kindTake) seg (State.serveUnaddressed takeBody? runTake seg))

/-! ### CLAIM -/

/-- An answer to a CLAIM that carries X alone (R105). -/
def claimAnswer (x : Identity) (status : Status) (s : State) : Answer :=
  { state := s, status := status, rest := identityBytes x }

/-- X stands in the binding and the binding is not HELD: case 2 (R107). -/
def Binding.movedBy (x : Identity) (b : Binding) : Bool := b.stands x && decide (b.state ≠ .held)

/-- The first address other than `a`, ascending, whose binding `p` holds of. -/
def State.findElsewhere (p : Binding → Bool) (a : Addr) (s : State) : Option Addr :=
  allAddrs.find? (fun b => decide (b ≠ a) && p (s.binding b))

/-- A HELD binding of X elsewhere is made anonymous (R108). -/
def State.forgetElsewhere (x : Identity) (a : Addr) (s : State) : State :=
  match s.findElsewhere (isHeldBy x) a with
  | some b => s.makeAnonymous b
  | none => s

/-- What every claim that binds X, or makes X the challenger, does besides (R116): X's admission entry is removed and a
HELD binding of X's elsewhere is made anonymous. -/
def State.settleClaimant (x : Identity) (a : Addr) (s : State) : State :=
  (s.forgetElsewhere x a).removeEntry x

/-- The claim binds X at `a` with lease `l` (cases 4 to 6 and 9). -/
def claimBinds (h : Holder) (l : Lease) (reserved : Bool) (status : Status) (a : Addr) (s : State) : Answer :=
  { state := (s.enterBound h l reserved a).settleClaimant h.identity a, status := status,
    rest := identityBytes h.identity ++ le16 l.grantedField, granted := [a] }

/-- Case 7: the refresh; a TIMED lease is granted the default lease, a PERMANENT one stays (R112). -/
def claimRefreshes (h : Holder) (l : Lease) (reserved : Bool) (a : Addr) (s : State) : Answer :=
  match l with
  | .timed _ _ =>
    let fresh := Lease.grant s.policy.defaultLease
    { state := (s.setBinding a (.bound h fresh reserved none)).settleClaimant h.identity a, status := .ok,
      rest := identityBytes h.identity ++ le16 fresh.grantedField, granted := [a] }
  | .permanent =>
    { state := (s.setBinding a (.bound h .permanent reserved none)).settleClaimant h.identity a, status := .ok,
      rest := identityBytes h.identity ++ le16 0 }

/-- The contest window as a contest's count: absent when it is 0 (R14, R113). -/
def State.contestCount (s : State) : Option Countdown :=
  if s.policy.contestWindow = 0 then none else some (Countdown.fresh s.policy.contestWindow)

/-- Case 8: the contest begins; the lease is frozen and CONTEST is set (R113, R14). -/
def claimContests (h : Holder) (l : Lease) (reserved : Bool) (r : Option Replay) (c : Challenger) (a : Addr)
    (s : State) : Answer :=
  claimAnswer c.identity .contested
    (((s.setBinding a (.contested h l.frozen reserved r c s.contestCount)).settleClaimant c.identity a).setFactor .contest)

/-- A CLAIM of a FREE address is granted: in RECALL whatever the admission mode, else under OPEN (R109). -/
def State.claimGranted (s : State) : Bool := s.phase.isRecall || decide (s.policy.mode = .open_)

/-- Cases 4 to 11 of R106, by the state of the claimed address. -/
def claimAt (a : Addr) (x : Identity) (c : Byte) (seg : Segment) (s : State) : Answer :=
  match s.binding a with
  | .free =>
    if s.claimGranted then claimBinds ⟨x, c, [], seg⟩ (s.freshLease false .timed) false .ok a s
    else claimAnswer x .refused s
  | .reserved r =>
    if r.identity = x then claimBinds ⟨x, c, r.tag, seg⟩ (s.freshLease true r.kind) true .ok a s
    else claimAnswer x .taken s
  | .offered h o _ =>
    if h.identity = x then claimBinds ⟨x, c, h.tag, seg⟩ (s.offerLease o) o.reservedYes .ok a s
    else claimAnswer x .taken s
  | .bound h l v r =>
    if h.identity = x then claimRefreshes ⟨x, c, h.tag, seg⟩ l v a s
    else claimContests h l v r ⟨x, c, seg⟩ a s
  | .held (some h) _ =>
    if h.identity = x then claimBinds ⟨x, c, h.tag, seg⟩ (s.freshLease false .timed) false .restored a s
    else claimAnswer x .taken s
  | .held none _ => claimAnswer x .taken s
  | .contested h _ _ _ ch _ =>
    if h.identity = x ∨ ch.identity = x then claimAnswer x .contested s else claimAnswer x .taken s

/-- R106, in order: BARRED, MOVED, then the state of the claimed address. -/
def runClaim (seg : Segment) (a : Addr) (body : Identity × Byte) (s : State) : Answer :=
  let x := body.1
  if s.isBarred x then claimAnswer x .barred s
  else match s.findElsewhere (Binding.movedBy x) a with
    | some b => { state := s, status := .moved, rest := identityBytes x ++ [addrByte b] }
    | none => claimAt a x body.2 seg s

/-- CLAIM (R106). -/
def execClaim (seg : Segment) (s : State) : Host.Outcome State Fault Refusal :=
  .next (s.takeFrame (isKind kindClaim) seg (State.serveClaimant claimBody? runClaim seg))

end Sys2Proof.Machine
end

