-- ==== Sys2Proof/Machine/Port.lean ====
section
/-! DEFINITION. The SPI exchanges of the host command port (chapter 9), and what every host command in execution passes
through (R179). -/

namespace Sys2Proof.Machine

/-- The bytes shifted out in an exchange of `n` complete bytes: the port status byte, then `rest`, then 0x00 (R173). -/
def shiftedOut (n : Nat) (status : Byte) (rest : List Byte) : List Byte :=
  (status :: (rest ++ List.replicate n 0)).take n

def State.setPort (p : Port) (s : State) : State := { s with port := p }

/-- CSn falls and an exchange begins: the port status byte is built from the state at this moment (R174). No exchange
overlaps another (R173). -/
def State.beginExchange (s : State) : State :=
  match s.port.selected with
  | none => s.setPort { s.port with selected := some s.statusByte }
  | some _ => s

/-- A row of an exchange of one kind. At its end `finish` acts on the status byte built when it began and on the bytes
shifted in; without an exchange in progress, or with bytes of another kind, no such exchange ends (log 1). During a reset
MISO is released and no exchange is taken (R188). -/
def State.exchange (kind : ExchangeKind) (finish : Byte → List Byte → State → State) (edge : ExchangeEdge) (s : State) :
    State :=
  if s.inReset.isSome then s
  else match edge with
    | .begins => s.beginExchange
    | .ends mosi =>
      match s.port.selected with
      | some status => if exchangeKind mosi = kind then finish status mosi s else s
      | none => s

/-- The exchange ends, these bytes having gone out, and nothing else changes (R173). -/
def State.shiftOut (out : List Byte) (s : State) : State :=
  s.setPort { s.port with selected := none, miso := out }

/-- STATUS_READ: the status byte has gone out, and nothing else changes (R173). -/
def State.statusRead (status : Byte) (mosi : List Byte) (s : State) : State :=
  s.shiftOut (shiftedOut mosi.length status [])

/-- STATUS_READ (R173). -/
def execStatusRead (edge : ExchangeEdge) (s : State) : Host.Outcome State Fault Refusal :=
  .next (s.exchange .statusRead State.statusRead edge)

/-- The reply frame: status, length, data, CRC-8 (R178, R199). -/
def HostReply.frame (r : HostReply) : List Byte :=
  let content := r.status.code :: BitVec.ofNat 8 r.data.length :: r.data
  content ++ [crc8 content]

/-- FETCH: the reply frame goes out when the port was READY as CSn fell, which the status byte says, and is discarded when
its CRC-8 has gone out; otherwise the no-reply marker goes out, also when an execution has ended since (R178). -/
def State.fetchReply (status : Byte) (mosi : List Byte) (s : State) : State :=
  match s.port.state with
  | .ready r =>
    if status.getLsbD 7 then
      s.setPort { s.port with
        selected := none
        miso := shiftedOut mosi.length status r.frame
        state := if r.frame.length + 1 ≤ mosi.length then .idle else .ready r }
    else s.shiftOut (shiftedOut mosi.length status [noReplyMarker])
  | .idle | .executing _ _ => s.shiftOut (shiftedOut mosi.length status [noReplyMarker])

/-- FETCH (R178). -/
def execFetch (edge : ExchangeEdge) (s : State) : Host.Outcome State Fault Refusal :=
  .next (s.exchange .fetch State.fetchReply edge)

/-- The command of a frame that passes the three conditions of R176: its code and its parameters. -/
def commandOf? (mosi : List Byte) : Option (Byte × List Byte) :=
  match mosi with
  | code :: len :: rest =>
    if len.toNat ≤ 32 ∧ rest.length = len.toNat + 1
        ∧ rest.drop len.toNat = [crc8 (code :: len :: rest.take len.toNat)] then
      some (code, rest.take len.toNat)
    else none
  | _ => none

/-- A command frame ends: refused in EXECUTING, discarded with CHECK when a check fails, else taken; a held reply is then
discarded and both flags are cleared (R176, R177). The port is as it stands now, the status byte that has gone out as it
stood when CSn fell (R174). -/
def State.commandEnd (status : Byte) (mosi : List Byte) (s : State) : State :=
  let out := shiftedOut mosi.length status []
  match s.port.state with
  | .executing _ _ => s.setPort { s.port with selected := none, miso := out, refused := true }
  | .idle | .ready _ =>
    match commandOf? mosi with
    | some (code, params) =>
      s.setPort { state := .executing code params, refused := false, check := false, selected := none, miso := out }
    | none => s.setPort { s.port with selected := none, miso := out, check := true }

/-- COMMAND_FRAME (R177). -/
def execCommandFrame (edge : ExchangeEdge) (s : State) : Host.Outcome State Fault Refusal :=
  .next (s.exchange .commandFrame State.commandEnd edge)

/-! ### The pin MISO (R173, R188, R203) -/

/-- MISO is driven while an exchange is in progress, and released while CSn is high and during a reset. -/
def State.misoDriven (s : State) : Bool := s.inReset.isNone && s.port.selected.isSome

/-! ### Execution -/

/-- What a host command comes to: the state it leaves (before record changes are counted), its status, its data, and the
bindings to which it granted a lease. -/
structure HostAnswer where
  state : State
  status : HostStatus
  data : List Byte := []
  granted : List Addr := []

/-- A command that fails with a status changes nothing, and its reply carries no data (R179, R180). -/
def failed (status : HostStatus) (s : State) : HostAnswer := { state := s, status := status }

/-- The command in execution completes: its record changes are counted, and the port holds its reply (R179). -/
def State.complete (r : HostAnswer) (s : State) : State :=
  let t := commit s r.granted r.state
  t.setPort { t.port with state := .ready ⟨r.status, r.data⟩ }

/-- The row of a command acts when the port is EXECUTING a command whose code is one `codeOk` holds of (R179; log 1). -/
def State.runCommand (codeOk : Byte → Bool) (run : List Byte → State → HostAnswer) (s : State) : State :=
  if s.inReset.isSome then s
  else match s.port.state with
    | .executing code params => if codeOk code then s.complete (run params s) else s
    | .idle | .ready _ => s

def isCode (k : Byte) : Byte → Bool := fun x => decide (x = k)

/-- A command whose parameters are read first: BAD-PARAMETER for a length or a value it does not accept (R179, R200). -/
def withParams {α : Type} (parse : List Byte → Option α) (run : α → State → HostAnswer) (params : List Byte) (s : State) :
    HostAnswer :=
  match parse params with
  | some x => run x s
  | none => failed .badParameter s

/-- A code that is not in the command catalogue (R179). -/
def unknownCode (k : Byte) : Bool := !catalogue.contains k

/-- UNKNOWN_COMMAND (R179). -/
def execUnknownCommand (s : State) : Host.Outcome State Fault Refusal :=
  .next (s.runCommand unknownCode (fun _ t => failed .unknownCommand t))

end Sys2Proof.Machine
end

