-- ==== Sys2Proof/Machine/AdmissionCommands.lean ====
section
/-! DEFINITION. READ-ADMISSION, APPROVE, DENY, BAR, UNBAR and READ-BARRED (R71 to R76). -/

namespace Sys2Proof.Machine

/-- An entry as READ-ADMISSION reports it (R202). -/
def entryBytes (e : AdmissionEntry) : List Byte :=
  identityBytes e.identity ++ [e.cls, segmentCode e.segment] ++ le16 e.wait.remaining ++ tagField e.tag

/-- R73: the length, and the entry at the position when there is one. -/
def readAdmission (p : Nat) (s : State) : HostAnswer :=
  { state := s, status := .done,
    data := BitVec.ofNat 8 s.admission.length :: fieldBytesOrNone (s.admission[p]?) }
where
  fieldBytesOrNone : Option AdmissionEntry → List Byte
    | some e => entryBytes e
    | none => []

/-- READ-ADMISSION (R73). -/
def execReadAdmission (s : State) : Host.Outcome State Fault Refusal :=
  .next (s.runCommand (isCode codeReadAdmission) (withParams positionParam? readAdmission))

/-- The offer is made: the DONE reply carries the address offered and the offer remaining (R71). -/
def approved (a : Addr) (t : State) : HostAnswer :=
  { state := t, status := .done, data := [addrByte a, BitVec.ofNat 8 t.policy.offerWindow] }

/-- The address is chosen as ASK would choose it, and the offer takes class, tag and segment from the entry (R71). -/
def offerFromEntry (e : AdmissionEntry) (s : State) : HostAnswer :=
  let h : Holder := ⟨e.identity, e.cls, e.tag, e.segment⟩
  match s.ownAddr e.identity with
  | some (a, o) => approved a (s.makeOffer h o a)
  | none =>
    match s.newcomerAddr with
    | some a => approved a (s.offerNewcomer h a)
    | none => failed .noRoom s

/-- Phase RUNNING (R71). -/
def Phase.isRunning : Phase → Bool
  | .running => true
  | .stopped | .recall _ => false

/-- R71, in order. -/
def approve (x : Identity) (s : State) : HostAnswer :=
  if !s.phase.isRunning then failed .wrongPhase s
  else match s.entryOf x with
    | none => failed .noSuch s
    | some e => if s.atOfferLimit then failed .limit s else offerFromEntry e s

/-- APPROVE (R71). -/
def execApprove (s : State) : Host.Outcome State Fault Refusal :=
  .next (s.runCommand (isCode codeApprove) (withParams identityParam? approve))

/-- R72. -/
def deny (p : Identity × Bool) (s : State) : HostAnswer :=
  let x := p.1
  if !s.hasEntry x then failed .noSuch s
  else if p.2 then
    if Config.barredPlaces ≤ s.barred.length then failed .noRoom s
    else { state := (s.addBarred x).removeEntry x, status := .done }
  else { state := s.removeEntry x, status := .done }

/-- DENY (R72). -/
def execDeny (s : State) : Host.Outcome State Fault Refusal :=
  .next (s.runCommand (isCode codeDeny) (withParams denyParams? deny))

/-- The binding in which X stands is changed by X's place in it (R76). -/
def State.barBinding (x : Identity) (a : Addr) (s : State) : State :=
  match s.binding a with
  | .offered h o _ => s.revokeOffer h o a
  | .bound h l v _ => (s.expel h l v a).sendVacate a h.identity h.segment .barred
  | .contested h l v _ c _ =>
    if h.identity = x then (s.keepChallenger c l v a).sendVacate a h.identity h.segment .barred
    else (s.keepIncumbent h l v a).sendVacate a c.identity c.segment .barred
  | .held _ _ => s.makeAnonymous a
  | .free | .reserved _ => s

/-- The address of the RESERVED binding in which X stands, or 0 (R75). -/
def reservedAddress (x : Identity) (s : State) : Byte :=
  match s.findBinding (isReservedFor x) with
  | some a => addrByte a
  | none => 0

/-- R75, in order. -/
def barIdentity (x : Identity) (s : State) : HostAnswer :=
  if s.isBarred x then { state := s, status := .done, data := [reservedAddress x s] }
  else if Config.barredPlaces ≤ s.barred.length then failed .noRoom s
  else
    let t := (s.addBarred x).removeEntry x
    match t.findBinding (Binding.stands x) with
    | some a => { state := t.barBinding x a, status := .done, data := [addrByte a], granted := grantedAt t a }
    | none => { state := t, status := .done, data := [0] }
where
  /-- a contest settled by the bar grants a fresh lease (R125) -/
  grantedAt (t : State) (a : Addr) : List Addr := if (t.binding a).state = .contested then [a] else []

/-- BAR (R75). -/
def execBar (s : State) : Host.Outcome State Fault Refusal :=
  .next (s.runCommand (isCode codeBar) (withParams identityParam? barIdentity))

/-- R74. -/
def unbar (x : Identity) (s : State) : HostAnswer :=
  if s.isBarred x then { state := { s with barred := s.barred.filter (fun y => decide (y ≠ x)) }, status := .done }
  else failed .noSuch s

/-- UNBAR (R74). -/
def execUnbar (s : State) : Host.Outcome State Fault Refusal :=
  .next (s.runCommand (isCode codeUnbar) (withParams identityParam? unbar))

/-- R74: the count, and up to 8 identities in ascending order from the starting index on. -/
def readBarred (i : Nat) (s : State) : HostAnswer :=
  { state := s, status := .done,
    data := BitVec.ofNat 8 s.barred.length :: ((s.barred.drop i).take 8).flatMap identityBytes }

/-- READ-BARRED (R74). -/
def execReadBarred (s : State) : Host.Outcome State Fault Refusal :=
  .next (s.runCommand (isCode codeReadBarred) (withParams barredIndexParam? readBarred))

end Sys2Proof.Machine
end

