-- ==== Sys2Proof/Machine/AttentionCommands.lean ====
section
/-! DEFINITION. COLLECT, READ-FACTORS, CLEAR-FACTORS and SET-ENABLES (R191, R193). -/

namespace Sys2Proof.Machine

/-- R193: the lowest marks, up to 32, leave the change set; the reply carries how many, how many are left, and each. -/
def collect (_ : Unit) (s : State) : HostAnswer :=
  let taken := s.marks.take Config.collectMarks
  let left := s.marks.drop Config.collectMarks
  { state := { s with marks := left }, status := .done,
    data := [BitVec.ofNat 8 taken.length, BitVec.ofNat 8 left.length] ++ taken.map Mark.code }

/-- COLLECT (R193). -/
def execCollect (s : State) : Host.Outcome State Fault Refusal :=
  .next (s.runCommand (isCode codeCollect) (withParams noParams? collect))

/-- R191: the twelve factors and the twelve enables. -/
def readFactors (_ : Unit) (s : State) : HostAnswer :=
  { state := s, status := .done, data := factorBytes s.factors ++ factorBytes s.enables }

/-- READ-FACTORS (R191). -/
def execReadFactors (s : State) : Host.Outcome State Fault Refusal :=
  .next (s.runCommand (isCode codeReadFactors) (withParams noParams? readFactors))

/-- R191: every event factor named is cleared; names of condition factors are ignored. -/
def clearFactors (named : BitVec 12) (s : State) : HostAnswer :=
  let t : State := { s with events := s.events &&& ~~~(named.extractLsb' 0 10) }
  { state := t, status := .done, data := factorBytes t.factors }

/-- CLEAR-FACTORS (R191). -/
def execClearFactors (s : State) : Host.Outcome State Fault Refusal :=
  .next (s.runCommand (isCode codeClearFactors) (withParams factorParam? clearFactors))

/-- R191: all twelve enables are replaced together. -/
def setEnables (enables : BitVec 12) (s : State) : HostAnswer :=
  { state := { s with enables := enables }, status := .done, data := factorBytes enables }

/-- SET-ENABLES (R191). -/
def execSetEnables (s : State) : Host.Outcome State Fault Refusal :=
  .next (s.runCommand (isCode codeSetEnables) (withParams factorParam? setEnables))

end Sys2Proof.Machine
end

