-- ==== Sys2Proof/Machine/BindingCommands.lean ====
section
/-! DEFINITION. READ-RECORD, FIND-IDENTITY, RESERVE, UNRESERVE, EVICT, MODIFY and RESOLVE-CONTEST (R186, R187, R94, R96,
R91, R93, R120 to R122). -/

namespace Sys2Proof.Machine

/-! ### READ-RECORD (R186, R201) -/

def zeros (n : Nat) : List Byte := List.replicate n 0

/-- The fields of a record as READ-RECORD reports them, each absent where R3 or the record has it absent. -/
structure RecordView where
  identity : Option (Identity × Byte) := none
  tag : Tag := []
  kind : Option LeaseKind := none
  lease : Option (Nat × Nat) := none
  segment : Option Segment := none
  offer : Option (Byte × Nat) := none
  hold : Option Nat := none
  challenger : Option Challenger := none
  contest : Option Nat := none
  replay : Option Replay := none

def Lease.lengths? : Lease → Option (Nat × Nat)
  | .timed g r => some (g, r.remaining)
  | .permanent => none

def Origin.kind? : Origin → Option LeaseKind
  | .reserved k => some k
  | .free | .held => none

/-- The presence table of R3. -/
def Binding.view : Binding → RecordView
  | .free => {}
  | .reserved r => { identity := some (r.identity, r.cls), tag := r.tag, kind := some r.kind }
  | .offered h o r =>
    { identity := some (h.identity, h.cls), tag := h.tag, kind := o.kind?, segment := some h.segment,
      offer := some (o.code, r.remaining) }
  | .bound h l _ p =>
    { identity := some (h.identity, h.cls), tag := h.tag, kind := some l.kind, lease := l.lengths?,
      segment := some h.segment, replay := p }
  | .held (some h) r =>
    { identity := some (h.identity, h.cls), tag := h.tag, segment := some h.segment, hold := some r.remaining }
  | .held none r => { hold := some r.remaining }
  | .contested h l _ p c r =>
    { identity := some (h.identity, h.cls), tag := h.tag, kind := some l.kind, lease := l.lengths?,
      segment := some h.segment, challenger := some c, contest := r.map (·.remaining), replay := p }

/-- The presence field, bits 0 to 9 (R201). -/
def RecordView.presence (v : RecordView) : Nat :=
  ([v.identity.isSome, v.kind.isSome, v.lease.isSome, v.segment.isSome, v.offer.isSome, v.hold.isSome,
    v.challenger.isSome, v.contest.isSome, v.replay.isSome, v.replay.isSome].zipIdx.map
      (fun p => if p.1 then 2 ^ p.2 else 0)).sum

/-- Bytes of a field, or as many zero bytes when it is absent (R201). -/
def fieldBytes {α : Type} (n : Nat) (f : α → List Byte) : Option α → List Byte
  | some x => f x
  | none => zeros n

/-- The 45 + g data bytes of R201. -/
def recordBytes (a : Addr) (s : State) : List Byte :=
  let b := s.binding a
  let v := b.view
  let gs := s.groupsOf a
  [addrByte a, b.state.code] ++ le16 v.presence ++ [yesNoCode b.reservedYes]
    ++ fieldBytes 7 (fun p => identityBytes p.1 ++ [p.2]) v.identity
    ++ fieldBytes 1 (fun k => [leaseKindCode k]) v.kind
    ++ fieldBytes 4 (fun p => le16 p.1 ++ le16 p.2) v.lease
    ++ fieldBytes 1 (fun g => [segmentCode g]) v.segment
    ++ fieldBytes 2 (fun p => [p.1, BitVec.ofNat 8 p.2]) v.offer
    ++ fieldBytes 2 le16 v.hold
    ++ fieldBytes 8 (fun c => identityBytes c.identity ++ [c.cls, segmentCode c.segment]) v.challenger
    ++ fieldBytes 2 le16 v.contest
    ++ fieldBytes 3 (fun r => [0#4 ++ r.sequence, r.kind, r.status.code]) v.replay
    ++ (tagField v.tag ++ zeros (8 - v.tag.length))
    ++ (BitVec.ofNat 8 gs.length :: gs.map groupByte)

def readRecord (a : Addr) (s : State) : HostAnswer := { state := s, status := .done, data := recordBytes a s }

/-- READ-RECORD (R186). -/
def execReadRecord (s : State) : Host.Outcome State Fault Refusal :=
  .next (s.runCommand (isCode codeReadRecord) (withParams addrParam? readRecord))

/-! ### FIND-IDENTITY (R187) -/

/-- X's position in the admission queue, or the absent byte (R202). -/
def positionByte (x : Identity) (s : State) : Byte :=
  match s.admission.findIdx? (fun e => decide (e.identity = x)) with
  | some p => BitVec.ofNat 8 p
  | none => absentByte

/-- IDENTITY 0x00, CHALLENGER 0x01 (R198). -/
def roleByte (x : Identity) (b : Binding) : Byte := if b.identity? = some x then 0x00 else 0x01

/-- Address, role, state, barred, admission position (R202). -/
def findIdentity (x : Identity) (s : State) : HostAnswer :=
  let standing :=
    match s.findBinding (Binding.stands x) with
    | some a => [addrByte a, roleByte x (s.binding a), (s.binding a).state.code]
    | none => [0, absentByte, absentByte]
  { state := s, status := .done, data := standing ++ [yesNoCode (s.isBarred x), positionByte x s] }

/-- FIND-IDENTITY (R187). -/
def execFindIdentity (s : State) : Host.Outcome State Fault Refusal :=
  .next (s.runCommand (isCode codeFindIdentity) (withParams identityParam? findIdentity))

/-! ### RESERVE and UNRESERVE (R94, R96, R15) -/

/-- The address is FREE, or HELD with identity X (R94). -/
def reservable (x : Identity) : Binding → Bool
  | .free => true
  | .held (some h) _ => decide (h.identity = x)
  | .held none _ | .reserved _ | .offered _ _ _ | .bound _ _ _ _ | .contested _ _ _ _ _ _ => false

/-- X stands in a binding other than `a` that is not HELD (R94). -/
def State.standsElsewhere (x : Identity) (a : Addr) (s : State) : Bool :=
  allAddrs.any (fun b => decide (b ≠ a) && (s.binding b).stands x && decide ((s.binding b).state ≠ .held))

/-- A HELD binding of X other than `a` is made anonymous (R94, R9). -/
def State.anonymizeOther (x : Identity) (a : Addr) (s : State) : State :=
  match allAddrs.find? (fun b => decide (b ≠ a) && decide ((s.binding b).state = .held) && (s.binding b).stands x) with
  | some b => s.makeAnonymous b
  | none => s

/-- R94, in order. -/
def reserveAddress (p : Addr × Reservation) (s : State) : HostAnswer :=
  let a := p.1
  let x := p.2.identity
  if s.isBarred x || !reservable x (s.binding a) || s.standsElsewhere x a then failed .wrongState s
  else { state := (s.anonymizeOther x a).goReserved p.2 a, status := .done, data := [addrByte a] }

/-- RESERVE (R94). -/
def execReserve (s : State) : Host.Outcome State Fault Refusal :=
  .next (s.runCommand (isCode codeReserve) (withParams reserveParams? reserveAddress))

/-- A host command that succeeds on `a`, with the state of `a` after it. -/
def doneStateAfter (a : Addr) (t : State) : HostAnswer :=
  { state := t, status := .done, data := [(t.binding a).state.code] }

/-- R15, by state. -/
def unreserveAddress (a : Addr) (s : State) : HostAnswer :=
  match s.binding a with
  | .reserved _ => doneStateAfter a (s.goFree .tail a)
  | .bound h l _ p => doneStateAfter a (s.setBinding a (.bound h l false p))
  | .contested h l _ p c r => doneStateAfter a (s.setBinding a (.contested h l false p c r))
  | .offered h (.reserved _) r => doneStateAfter a (s.setBinding a (.offered h .free r))
  | .offered _ .free _ | .offered _ .held _ | .free | .held _ _ => failed .wrongState s

/-- UNRESERVE (R96). -/
def execUnreserve (s : State) : Host.Outcome State Fault Refusal :=
  .next (s.runCommand (isCode codeUnreserve) (withParams addrParam? unreserveAddress))

/-! ### EVICT (R91) -/

/-- State before, state after. -/
def evicted (a : Addr) (s t : State) : HostAnswer :=
  { state := t, status := .done, data := [(s.binding a).state.code, (t.binding a).state.code] }

/-- R91, by state. Both parties of a contest are told, the incumbent first (R48). -/
def evictAddress (a : Addr) (s : State) : HostAnswer :=
  match s.binding a with
  | .bound h l v _ => evicted a s ((s.expel h l v a).sendVacate a h.identity h.segment .evicted)
  | .offered h o _ => evicted a s (s.revokeOffer h o a)
  | .contested h l v _ c _ =>
    evicted a s (((s.expel h l v a).sendVacate a h.identity h.segment .evicted).sendVacate a c.identity c.segment .evicted)
  | .held _ _ => evicted a s (s.makeAnonymous a)
  | .free | .reserved _ => failed .wrongState s

/-- EVICT (R91). -/
def execEvict (s : State) : Host.Outcome State Fault Refusal :=
  .next (s.runCommand (isCode codeEvict) (withParams addrParam? evictAddress))

/-! ### MODIFY (R93) -/

/-- The lease of a BOUND binding after the lease choice (R93). -/
def LeaseChoice.onLease (n : Nat) (l : Lease) : LeaseChoice → Lease
  | .keep => l
  | .timed => .grant n
  | .permanent => .permanent

/-- The lease kind of a RESERVED binding after the lease choice (R93). -/
def LeaseChoice.onKind (k : LeaseKind) : LeaseChoice → LeaseKind
  | .keep => k
  | .timed => .timed
  | .permanent => .permanent

/-- R93. -/
def modifyAddress (p : Addr × Byte × LeaseChoice × Nat × Tag) (s : State) : HostAnswer :=
  let (a, c, choice, n, tag) := p
  match s.binding a with
  | .bound h l v r =>
    let l' := choice.onLease n l
    { state := s.setBinding a (.bound { h with cls := c, tag := tag } l' v r), status := .done,
      data := [BindingState.bound.code, c, leaseKindCode l'.kind] ++ le16 l'.grantedField,
      granted := if choice = .timed then [a] else [] }
  | .reserved r =>
    let k := choice.onKind r.kind
    { state := s.setBinding a (.reserved ⟨r.identity, c, tag, k⟩), status := .done,
      data := [BindingState.reserved.code, c, leaseKindCode k] ++ le16 0 }
  | .free | .offered _ _ _ | .held _ _ | .contested _ _ _ _ _ _ => failed .wrongState s

/-- MODIFY (R93). -/
def execModify (s : State) : Host.Outcome State Fault Refusal :=
  .next (s.runCommand (isCode codeModify) (withParams modifyParams? modifyAddress))

/-! ### RESOLVE-CONTEST (R120 to R122) -/

/-- State after, identity now bound, or six zero bytes (R182). -/
def settled (a : Addr) (x : Option Identity) (t : State) : HostAnswer :=
  { state := t, status := .done, data := (t.binding a).state.code :: fieldBytes 6 identityBytes x, granted := [a] }

/-- R120 to R122. -/
def resolveContest (p : Addr × Keep) (s : State) : HostAnswer :=
  let a := p.1
  match s.binding a with
  | .contested h l v _ c _ =>
    match p.2 with
    | .incumbent =>
      settled a (some h.identity) ((s.keepIncumbent h l v a).sendVacate a c.identity c.segment .contestLost)
    | .challenger =>
      settled a (some c.identity) ((s.keepChallenger c l v a).sendVacate a h.identity h.segment .contestLost)
    | .neither =>
      settled a none
        (((s.expel h l v a).sendVacate a h.identity h.segment .contestLost).sendVacate a c.identity c.segment .contestLost)
  | .free | .reserved _ | .offered _ _ _ | .bound _ _ _ _ | .held _ _ => failed .wrongState s

/-- RESOLVE-CONTEST (R120). -/
def execResolveContest (s : State) : Host.Outcome State Fault Refusal :=
  .next (s.runCommand (isCode codeResolveContest) (withParams resolveContestParams? resolveContest))

end Sys2Proof.Machine
end

