-- ==== Sys2Proof/Machine/DirectoryCommands.lean ====
section
/-! DEFINITION. SET-POLICY, START, STOP, CLEAR and READ-STATUS (R184, R99, R100, R102, R29, R154, R185). -/

namespace Sys2Proof.Machine

/-! ### SET-POLICY (R184) -/

/-- The eight policy parameters in 13 bytes (R202). -/
def policyBytes (p : Policy) : List Byte :=
  [p.mode.code, BitVec.ofNat 8 p.offerLimit, BitVec.ofNat 8 p.offerWindow] ++ le16 p.defaultLease
    ++ le16 p.maximumLease ++ le16 p.holdPeriod ++ le16 p.admissionWindow ++ le16 p.contestWindow

/-- R184: a new policy, refused with LIMIT when its offer limit is below the count of OFFERED bindings. -/
def replacePolicy (p : Policy) (s : State) : HostAnswer :=
  if p.offerLimit < s.offeredCount then failed .limit s
  else { state := { s with policy := p }, status := .done, data := policyBytes p }

/-- R184: without parameters the policy is read. -/
def setPolicy (params : List Byte) (s : State) : HostAnswer :=
  match params with
  | [] => { state := s, status := .done, data := policyBytes s.policy }
  | _ :: _ => withParams policyParams? replacePolicy params s

/-- SET-POLICY (R184). -/
def execSetPolicy (s : State) : Host.Outcome State Fault Refusal :=
  .next (s.runCommand (isCode codeSetPolicy) setPolicy)

/-! ### START and STOP (R99, R100, R102) -/

/-- START withdraws the offer at `a`, if one stands there, when its origin is one `which` holds of (R11, R100). -/
def State.withdrawOffer (which : Origin → Bool) (a : Addr) (s : State) : State :=
  match s.binding a with
  | .offered h o _ => if which o then s.returnOffer h o .head false a else s
  | .free | .reserved _ | .bound _ _ _ _ | .held _ _ | .contested _ _ _ _ _ _ => s

def Origin.isFree : Origin → Bool
  | .free => true
  | .held | .reserved _ => false

/-- Every offer is withdrawn: those of origin FREE stand at the head of the free queue in ascending order, those of
origin HELD join the hold queue in ascending order (R100). With a hold period of 0 the latter join the tail of the free queue
(R8); that they do so in ascending order too is the model's choice (log 17). -/
def State.withdrawOffers (s : State) : State :=
  allAddrs.foldl (fun t a => t.withdrawOffer (fun o => !o.isFree) a)
    (allAddrs.reverse.foldl (fun t a => t.withdrawOffer Origin.isFree a) s)

/-- The entry into RECALL (R100). -/
def State.enterRecall (w : Nat) (s : State) : State :=
  ({ s.withdrawOffers with phase := .recall (Countdown.fresh w), admission := [] } : State).broadcast (recallNotice w)

/-- R99: taken in STOPPED only; a window of 0 enters RUNNING directly. -/
def startDirectory (w : Nat) (s : State) : HostAnswer :=
  if s.phase.isStopped then
    let t := if w = 0 then { s with phase := .running } else s.enterRecall w
    { state := t, status := .done, data := [phaseByte t.phase] }
  else failed .wrongPhase s

/-- START (R99). -/
def execStart (s : State) : Host.Outcome State Fault Refusal :=
  .next (s.runCommand (isCode codeStart) (withParams startParam? startDirectory))

/-- A count stopped where it stands, with no expiry pending (R80, R103). -/
def Binding.stopTimers : Binding → Binding
  | .free => .free
  | .reserved r => .reserved r
  | .offered h o r => .offered h o r.frozen
  | .bound h l v p => .bound h l.frozen v p
  | .held former r => .held former r.frozen
  | .contested h l v p c r => .contested h l.frozen v p c (r.map Countdown.frozen)

/-- Every directory timer and admission wait stands still at its value (R80, R102). -/
def State.stopTimers (s : State) : State :=
  { s with
    table := s.table.map Binding.stopTimers
    admission := s.admission.map (fun e => { e with wait := e.wait.frozen }) }

/-- R102: the phase becomes STOPPED, the timers stand still, and both listings are abandoned (R137). -/
def stopDirectory (_ : Unit) (s : State) : HostAnswer :=
  if s.phase.isStopped then failed .wrongPhase s
  else
    { state := (({ s.stopTimers with phase := .stopped } : State).endListing .a).endListing .b, status := .done,
      data := [phaseByte .stopped] }

/-- STOP (R102). -/
def execStop (s : State) : Host.Outcome State Fault Refusal :=
  .next (s.runCommand (isCode codeStop) (withParams noParams? stopDirectory))

/-! ### CLEAR (R29, R154) -/

/-- The reservation a reserved binding goes back to, whatever its state; none for a binding whose reserved attribute is
no (R29). -/
def Binding.reservation? : Binding → Option Reservation
  | .reserved r => some r
  | .offered h (.reserved k) _ => some (h.reservation k)
  | .bound h l true _ => some (h.reservation l.kind)
  | .contested h l true _ _ _ => some (h.reservation l.kind)
  | .offered _ .free _ | .offered _ .held _ | .bound _ _ false _ | .contested _ _ false _ _ _ | .free | .held _ _ => none

/-- R29: RESERVED for reserved bindings when reservations are kept, FREE for every other. -/
def Binding.cleared (keepReservations : Bool) (b : Binding) : Binding :=
  match b.reservation? with
  | some r => if keepReservations then .reserved r else .free
  | none => .free

/-- R154: with keep groups yes an OPEN group stays OPEN with an empty list, with no it becomes UNUSED. -/
def GroupRecord.cleared (keepGroups : Bool) : GroupRecord → GroupRecord
  | .unused => .unused
  | .opened l p _ => if keepGroups then .opened l p [] else .unused

/-- The table, queues, memberships, admission queue and listings after CLEAR (R29, R69, R137, R154). -/
def State.clearTable (keepReservations keepGroups : Bool) (s : State) : State :=
  let table := s.table.map (Binding.cleared keepReservations)
  (({ s with
      table := table
      freeQueue := allAddrs.filter (fun a => decide (table[a.val] = .free))
      holdQueue := []
      boundary := Boundary.none
      groups := s.groups.map (GroupRecord.cleared keepGroups)
      poolFree := Config.poolSize
      admission := [] } : State).endListing .a).endListing .b

/-- CLEAR is taken in STOPPED only; its reply carries the number of records changed and the generation number after
(R29, R181). -/
def clearDirectory (keep : Bool × Bool) (s : State) : HostAnswer :=
  if s.phase.isStopped then
    let t := s.clearTable keep.1 keep.2
    let changed := changedRecords s t []
    { state := t, status := .done,
      data := BitVec.ofNat 8 changed.length :: le32 (t.recordChanges changed).generation }
  else failed .wrongPhase s

/-- CLEAR (R29). -/
def execClear (s : State) : Host.Outcome State Fault Refusal :=
  .next (s.runCommand (isCode codeClear) (withParams clearParams? clearDirectory))

/-! ### READ-STATUS (R185) -/

/-- Recall remaining in RECALL, 0 in the other phases. -/
def Phase.recallRemaining : Phase → Nat
  | .recall r => r.remaining
  | .stopped | .running => 0

/-- The 18 bytes of R202. -/
def statusBytes (s : State) : List Byte :=
  [phaseByte s.phase, BitVec.ofNat 8 s.phase.recallRemaining]
    ++ [BindingState.free, .reserved, .offered, .bound, .held, .contested].map
        (fun k => BitVec.ofNat 8 (s.countBindings (fun b => decide (b.state = k))))
    ++ [BitVec.ofNat 8 s.freeQueue.length, BitVec.ofNat 8 s.holdQueue.length, BitVec.ofNat 8 s.admission.length,
        BitVec.ofNat 8 s.barred.length, BitVec.ofNat 8 s.poolFree]
    ++ le32 s.generation ++ [s.lastReset.code]

def readStatus (_ : Unit) (s : State) : HostAnswer := { state := s, status := .done, data := statusBytes s }

/-- READ-STATUS (R185). -/
def execReadStatus (s : State) : Host.Outcome State Fault Refusal :=
  .next (s.runCommand (isCode codeReadStatus) (withParams noParams? readStatus))

end Sys2Proof.Machine
end

