-- ==== Sys2Proof/Machine/Lease.lean ====
section
/-! DEFINITION. RENEW, RETAG and RELEASE (chapter 4). From a CONTESTED address each is answered CONTESTED and not executed
(R46). -/

namespace Sys2Proof.Machine

/-- The CONTESTED answer to a request that a contested address may not make (R46). -/
def contestedAnswer (s : State) : Answer := { state := s, status := .contested }

/-- The length a RENEW grants: the default lease for 0 or none, 10 for 1 to 9, the maximum lease when it is exceeded, else
the request (R83). -/
def renewLength (p : Policy) (requested : Nat) : Nat :=
  if requested = 0 then p.defaultLease
  else if requested < 10 then 10
  else if p.maximumLease < requested then p.maximumLease
  else requested

/-- R83. -/
def runRenew (seg : Segment) (a : Addr) (requested : Nat) (s : State) : Answer :=
  match s.binding a with
  | .bound h (.timed _ _) v r =>
    let n := renewLength s.policy requested
    { state := s.setBinding a (.bound (h.on seg) (Lease.grant n) v r), status := .ok, rest := le16 n, granted := [a] }
  | .bound h .permanent v r =>
    { state := s.setBinding a (.bound (h.on seg) .permanent v r), status := .ok, rest := le16 0 }
  | .free | .reserved _ | .offered _ _ _ | .held _ _ | .contested _ _ _ _ _ _ => contestedAnswer s

/-- RENEW (R83). -/
def execRenew (seg : Segment) (s : State) : Host.Outcome State Fault Refusal :=
  .next (s.takeFrame (isKind kindRenew) seg (State.serveBound renewBody? runRenew seg))

/-- R85. -/
def runRetag (seg : Segment) (a : Addr) (tag : Tag) (s : State) : Answer :=
  match s.binding a with
  | .bound h l v r => { state := s.setBinding a (.bound { h.on seg with tag := tag } l v r), status := .ok }
  | .free | .reserved _ | .offered _ _ _ | .held _ _ | .contested _ _ _ _ _ _ => contestedAnswer s

/-- RETAG (R85). -/
def execRetag (seg : Segment) (s : State) : Host.Outcome State Fault Refusal :=
  .next (s.takeFrame (isKind kindRetag) seg (State.serveBound retagBody? runRetag seg))

/-- R88: the outcome of lease expiry, with the segment written first (R5). -/
def runRelease (seg : Segment) (a : Addr) (_ : Unit) (s : State) : Answer :=
  match s.binding a with
  | .bound h l v _ => { state := s.giveUp (h.on seg) l v false a, status := .ok }
  | .free | .reserved _ | .offered _ _ _ | .held _ _ | .contested _ _ _ _ _ _ => contestedAnswer s

/-- RELEASE (R88). -/
def execRelease (seg : Segment) (s : State) : Host.Outcome State Fault Refusal :=
  .next (s.takeFrame (isKind kindRelease) seg (State.serveBound emptyBody? runRelease seg))

end Sys2Proof.Machine
end

