-- ==== Sys2Proof/Machine/GroupRequests.lean ====
section
/-! DEFINITION. JOIN, LEAVE and MEMBERS (section 7.3). -/

namespace Sys2Proof.Machine

/-- An address is appended at the tail of a group's member list, taking one pool entry (R142, R143). -/
def State.appendMember (g : GroupNo) (limit : Nat) (p : JoinPolicy) (m : List Addr) (a : Addr) (s : State) : State :=
  { s.setGroup g (.opened limit p (m ++ [a])) with poolFree := s.poolFree - 1 }

/-- An address is removed from a group's member list from the place where it stood, returning its pool entry (R143). -/
def State.removeMember (g : GroupNo) (limit : Nat) (p : JoinPolicy) (m : List Addr) (a : Addr) (s : State) : State :=
  { s.setGroup g (.opened limit p (dropAddr a m)) with poolFree := s.poolFree + m.count a }

/-- The OK fields of JOIN and LEAVE: group and member count after the request (R146, R147). -/
def groupCountFields (g : GroupNo) (n : Nat) : List Byte := [groupByte g, BitVec.ofNat 8 n]

/-- The cases of R146, in order; `s` has the segment already written. -/
def joinGroup (a : Addr) (g : GroupNo) (s : State) : Answer :=
  match s.group g with
  | .unused => { state := s, status := .nogroup }
  | .opened _ .hostonly _ => { state := s, status := .hostonly }
  | .opened limit .stations m =>
    if m.contains a then { state := s, status := .ok, rest := groupCountFields g m.length }
    else if limit ≤ m.length then { state := s, status := .groupfull }
    else if s.poolFree = 0 then { state := s, status := .poolfull }
    else { state := s.appendMember g limit .stations m a, status := .ok, rest := groupCountFields g (m.length + 1) }

/-- The cases of R147, in order; `s` has the segment already written. -/
def leaveGroup (a : Addr) (g : GroupNo) (s : State) : Answer :=
  match s.group g with
  | .unused => { state := s, status := .nogroup }
  | .opened _ .hostonly _ => { state := s, status := .hostonly }
  | .opened limit .stations m =>
    if m.contains a then
      { state := s.removeMember g limit .stations m a, status := .ok,
        rest := groupCountFields g (dropAddr a m).length }
    else { state := s, status := .notmember }

/-- Each executed JOIN or LEAVE writes the segment field (R5, section 7.3); from a CONTESTED address it is answered
CONTESTED (R46). -/
def groupRequest (act : Addr → GroupNo → State → Answer) (seg : Segment) (a : Addr) (g : GroupNo) (s : State) : Answer :=
  match s.binding a with
  | .bound h l v r => act a g (s.setBinding a (.bound (h.on seg) l v r))
  | .free | .reserved _ | .offered _ _ _ | .held _ _ | .contested _ _ _ _ _ _ => contestedAnswer s

/-- JOIN (R146). -/
def execJoin (seg : Segment) (s : State) : Host.Outcome State Fault Refusal :=
  .next (s.takeFrame (isKind kindJoin) seg (State.serveBound groupBody? (groupRequest joinGroup) seg))

/-- LEAVE (R147). -/
def execLeave (seg : Segment) (s : State) : Host.Outcome State Fault Refusal :=
  .next (s.takeFrame (isKind kindLeave) seg (State.serveBound groupBody? (groupRequest leaveGroup) seg))

/-- R148: group, member count and members in join order, whatever the join policy. -/
def runMembers (g : GroupNo) (s : State) : Answer :=
  match s.group g with
  | .unused => { state := s, status := .nogroup }
  | .opened _ _ m => { state := s, status := .ok, rest := groupCountFields g m.length ++ m.map addrByte }

/-- MEMBERS (R148). -/
def execMembers (seg : Segment) (s : State) : Host.Outcome State Fault Refusal :=
  .next (s.takeFrame (isKind kindMembers) seg (State.serveEither groupBody? runMembers seg))

end Sys2Proof.Machine
end

