-- ==== Sys2Proof/Machine/GroupCommands.lean ====
section
/-! DEFINITION. OPEN-GROUP, CLOSE-GROUP, ADD-MEMBER, REMOVE-MEMBER and READ-GROUP (sections 7.2, 7.4). -/

namespace Sys2Proof.Machine

/-- Group state OPEN, limit, policy, member count (R202; OPEN is 0x01). -/
def openGroupBytes (limit : Nat) (p : JoinPolicy) (count : Nat) : List Byte :=
  [0x01, BitVec.ofNat 8 limit, p.code, BitVec.ofNat 8 count]

/-- R144, by the state of the group. -/
def openGroup (p : GroupNo × Nat × JoinPolicy) (s : State) : HostAnswer :=
  let (g, limit, policy) := p
  match s.group g with
  | .unused =>
    { state := s.setGroup g (.opened limit policy []), status := .done, data := openGroupBytes limit policy 0 }
  | .opened _ _ m =>
    if limit < m.length then failed .limit s
    else
      { state := s.setGroup g (.opened limit policy m), status := .done, data := openGroupBytes limit policy m.length }

/-- OPEN-GROUP (R144). -/
def execOpenGroup (s : State) : Host.Outcome State Fault Refusal :=
  .next (s.runCommand (isCode codeOpenGroup) (withParams openGroupParams? openGroup))

/-- R145: the members leave, the group becomes UNUSED, and GROUP-CLOSED is broadcast. -/
def closeGroup (g : GroupNo) (s : State) : HostAnswer :=
  match s.group g with
  | .unused => failed .wrongState s
  | .opened _ _ m =>
    { state := ({ s.setGroup g .unused with poolFree := s.poolFree + m.length } : State).broadcast (groupClosedNotice g),
      status := .done, data := [BitVec.ofNat 8 m.length] }

/-- CLOSE-GROUP (R145). -/
def execCloseGroup (s : State) : Host.Outcome State Fault Refusal :=
  .next (s.runCommand (isCode codeCloseGroup) (withParams groupParam? closeGroup))

/-- R149, in order; the join policy is ignored. -/
def addMember (p : GroupNo × Addr) (s : State) : HostAnswer :=
  let (g, a) := p
  match s.group g with
  | .unused => failed .wrongState s
  | .opened limit policy m =>
    if !(s.binding a).isBound then failed .wrongState s
    else if m.contains a then { state := s, status := .done, data := [BitVec.ofNat 8 m.length] }
    else if limit ≤ m.length then failed .limit s
    else if s.poolFree = 0 then failed .noRoom s
    else { state := s.appendMember g limit policy m a, status := .done, data := [BitVec.ofNat 8 (m.length + 1)] }

/-- ADD-MEMBER (R149). -/
def execAddMember (s : State) : Host.Outcome State Fault Refusal :=
  .next (s.runCommand (isCode codeAddMember) (withParams memberParams? addMember))

/-- R150, in order; the join policy and the state of the binding are ignored. -/
def removeMemberOf (p : GroupNo × Addr) (s : State) : HostAnswer :=
  let (g, a) := p
  match s.group g with
  | .unused => failed .wrongState s
  | .opened limit policy m =>
    if m.contains a then
      { state := s.removeMember g limit policy m a, status := .done,
        data := [BitVec.ofNat 8 (dropAddr a m).length] }
    else failed .noSuch s

/-- REMOVE-MEMBER (R150). -/
def execRemoveMember (s : State) : Host.Outcome State Fault Refusal :=
  .next (s.runCommand (isCode codeRemoveMember) (withParams memberParams? removeMemberOf))

/-- The fields of a group after its number: UNUSED 0x00, or OPEN 0x01 with limit, policy, count and members (R202). -/
def groupFields : GroupRecord → List Byte
  | .unused => [0x00]
  | .opened limit p m => openGroupBytes limit p m.length ++ m.map addrByte

/-- R151. -/
def readGroup (g : GroupNo) (s : State) : HostAnswer :=
  { state := s, status := .done, data := BitVec.ofNat 8 s.poolFree :: groupByte g :: groupFields (s.group g) }

/-- READ-GROUP (R151). -/
def execReadGroup (s : State) : Host.Outcome State Fault Refusal :=
  .next (s.runCommand (isCode codeReadGroup) (withParams groupParam? readGroup))

end Sys2Proof.Machine
end

