-- ==== Sys2Proof/Machine/Line.lean ====
section
/-! DEFINITION. The events of a segment line (chapter 8): characters, frame ends, transmissions, collisions. -/

namespace Sys2Proof.Machine

/-- An event of a segment line; during a reset no controller takes part (R203). -/
def State.onLine (seg : Segment) (act : Controller → Controller) (s : State) : State :=
  if s.inReset.isSome then s else s.setLine seg (act (s.line seg))

/-! ### Reception (section 8.2) -/

/-- The frame begun by its first character: unreadable when that character is in error, station traffic when it is not
0xFE, else a directory frame, stored when a slot is not ready and overrun when both are (R159, R160). -/
def Controller.beginFrame (ch : LineChar) (c : Controller) : Reception :=
  let fe := framingError ch
  let pe := parityError c.format ch
  if fe || pe then ⟨.unreadable, [], 1, fe, pe⟩
  else if ch.data = directoryAddress then
    if c.ready.length < Config.receiveSlots then ⟨.stored, [ch.data], 1, false, false⟩
    else ⟨.overrun, [], 1, false, false⟩
  else ⟨.traffic, [], 1, false, false⟩

/-- A further character: counted; of a stored directory frame the first 47 are stored, and errors are recorded against it
(R157, R158). Of a frame that is only followed, later errors count for nothing (R159, R160). -/
def Reception.extend (f : Format) (ch : LineChar) (r : Reception) : Reception :=
  match r.following with
  | .stored =>
    { r with
      stored := if r.stored.length < Config.storedCharacters then r.stored ++ [ch.data] else r.stored
      count := r.count + 1
      framing := r.framing || framingError ch
      parity := r.parity || parityError f ch }
  | .unreadable | .traffic | .overrun => { r with count := r.count + 1 }

/-- A character on the line restarts the idle count and begins or extends a frame. It is not taken in DISABLED, and in
TRANSMITTING the receiver reads the controller's own characters back (R157, R158). -/
def Controller.receive (ch : LineChar) (c : Controller) : Controller :=
  match c.line with
  | .idle | .waitGap | .backoff => { c with line := .receiving (c.beginFrame ch), idle := 0 }
  | .receiving r => { c with line := .receiving (r.extend c.format ch), idle := 0 }
  | .disabled | .transmitting _ => c

/-- CHARACTER_RECEIVED (R157). -/
def execCharacterReceived (seg : Segment) (ch : LineChar) (s : State) : Host.Outcome State Fault Refusal :=
  .next (s.onLine seg (Controller.receive ch))

/-- What the checks of a stored directory frame come to: the frame, or the flags of the first check that fails (R161). -/
inductive FrameCheck
  | good (f : Frame)
  | bad (flags : List SegmentFlag)
  deriving DecidableEq, Repr

/-- The character flags of a frame with errors: FRAMING, PARITY, or both (R159, R161). -/
def characterFlags (r : Reception) : List SegmentFlag :=
  (if r.framing then [SegmentFlag.framing] else []) ++ (if r.parity then [SegmentFlag.parity] else [])

/-- The frame is 7 plus its body length field long, and that field is at most 40 (R161, check 2). -/
def lengthConsistent (count : Nat) (bytes : List Byte) : Bool :=
  decide (5 ≤ count ∧ count ≤ 47 ∧ (bytes.getD 4 0).toNat ≤ 40 ∧ count = 7 + (bytes.getD 4 0).toNat)

/-- The source is 0x00 or 0x01 to 0x60 (R161, check 4). -/
def sourceOk (b : Byte) : Bool := decide (b.toNat ≤ 0x60)

/-- The checks of R161, in order: characters, length, CRC, source. -/
def checkFrame (r : Reception) : FrameCheck :=
  if r.framing || r.parity then .bad (characterFlags r)
  else if !lengthConsistent r.count r.stored then .bad [.length]
  else
    let n := (r.stored.getD 4 0).toNat
    let content := r.stored.take (5 + n)
    if r.stored.drop (5 + n) ≠ crc16Bytes content then .bad [.crc]
    else if !sourceOk (r.stored.getD 1 0) then .bad [.address]
    else .good
      { destination := r.stored.getD 0 0, source := r.stored.getD 1 0, kind := r.stored.getD 2 0,
        control := r.stored.getD 3 0, body := content.drop 5 }

/-- The state after a frame end: BACKOFF when the head frame has collided, else WAIT-GAP or IDLE (R158). -/
def Controller.afterFrame (c : Controller) : LineState :=
  if c.collisions ≠ 0 then .backoff else restState c.queue

/-- The controller leaves RECEIVING; the idle count holds 3 character times (R158). -/
def Controller.leaveReceiving (c : Controller) : Controller :=
  { c with line := c.afterFrame, idle := Config.frameEndIdle }

/-- The frame is decided at its end: a good one becomes ready and takes the next place in the order of arrival, any other
is discarded (R159 to R161). -/
def Controller.decideFrame (r : Reception) (c : Controller) : Controller :=
  match r.following with
  | .stored =>
    match checkFrame r with
    | .good f => { c with ready := c.ready ++ [f] }
    | .bad flags => { c with flags := raiseFlags flags c.flags }
  | .unreadable => { c with flags := raiseFlags (characterFlags r) c.flags }
  | .overrun => { c with flags := raiseFlags [.overrun] c.flags }
  | .traffic => c

/-- Whether the frame's end sets a segment flag, or would set one already set (R163). -/
def Reception.flagged (r : Reception) : Bool :=
  match r.following with
  | .stored =>
    match checkFrame r with
    | .good _ => false
    | .bad _ => true
  | .unreadable | .overrun => true
  | .traffic => false

/-- The idle count reaches 3 character times in RECEIVING (R158). Every cause of a flag sets the segment's error factor
(R163). -/
def State.frameEnd (seg : Segment) (s : State) : State :=
  match (s.line seg).line with
  | .receiving r =>
    let s1 := s.setLine seg ((s.line seg).decideFrame r).leaveReceiving
    if r.flagged then s1.setFactor (segmentErrorFactor seg) else s1
  | .disabled | .idle | .waitGap | .transmitting _ | .backoff => s

/-- FRAME_END (R158). -/
def execFrameEnd (seg : Segment) (s : State) : Host.Outcome State Fault Refusal :=
  .next (if s.inReset.isSome then s else s.frameEnd seg)

/-! ### Transmission (section 8.4) -/

/-- The head frame starts to go out: DE is driven and the line is no longer idle (R165). -/
def Controller.startSending (c : Controller) : Controller :=
  { c with line := .transmitting false, idle := 0 }

/-- The idle count reaches 4 character times: in WAIT-GAP, and in IDLE with a frame queued, the head frame is sent; in
IDLE with an empty queue the count stands at 4 (R165; log 4). -/
def Controller.gapOver (c : Controller) : Controller :=
  match c.line with
  | .waitGap => c.startSending
  | .idle => if c.queue.isEmpty then { c with idle := max c.idle Config.transmitIdle } else c.startSending
  | .disabled | .receiving _ | .transmitting _ | .backoff => c

/-- TRANSMISSION_START (R165). -/
def execTransmissionStart (seg : Segment) (s : State) : Host.Outcome State Fault Refusal :=
  .next (s.onLine seg Controller.gapOver)

/-- The idle count reaches 4 × k character times in BACKOFF: the head frame is sent again (R167). -/
def Controller.backoffOver (c : Controller) : Controller :=
  match c.line with
  | .backoff => c.startSending
  | .disabled | .idle | .receiving _ | .waitGap | .transmitting _ => c

/-- BACKOFF_EXPIRY (R167). -/
def execBackoffExpiry (seg : Segment) (s : State) : Host.Outcome State Fault Refusal :=
  .next (s.onLine seg Controller.backoffOver)

/-- The head frame leaves the queue and the driver is released: WAIT-GAP or IDLE, the next head with a collision count of
0, and the idle count restarted (R164, R166, R167). -/
def Controller.headGone (q : List QueuedFrame) (c : Controller) : Controller :=
  { c with queue := q, line := restState q, collisions := 0, idle := 0 }

/-- The send end of the head frame is reported to the listing unit, if it awaits it (R133, R166, R167). -/
def State.reportSendEnd (seg : Segment) (f : QueuedFrame) (s : State) : State :=
  if f.isAwaited then s.sendEnd seg else s

/-- The character read back differs from the byte sent, or has a framing or parity error (R166). -/
def readBackFails (fmt : Format) (sent : Byte) (ch : LineChar) : Bool :=
  framingError ch || parityError fmt ch || decide (ch.data ≠ sent)

/-- A collision of the head frame: collisions 1 to 3 lead to BACKOFF, the fourth drops the frame and sets CONTENTION
(R166, R167). -/
def State.collide (seg : Segment) (f : QueuedFrame) (q : List QueuedFrame) (s : State) : State :=
  let c := s.line seg
  if c.collisions + 1 < Config.lastCollision then
    s.setLine seg { c with collisions := c.collisions + 1, line := .backoff, idle := 0 }
  else ((s.setLine seg (c.headGone q)).reportSendEnd seg f).setFactor .contention

/-- A character of the head frame, at `position`, is read back as `ch` while TRANSMITTING. -/
def State.readBack (seg : Segment) (position : Nat) (ch : LineChar) (s : State) : State :=
  match (s.line seg).line, (s.line seg).queue with
  | .transmitting false, f :: q =>
    match f.frame.bytes[position]? with
    | some sent => if readBackFails (s.line seg).format sent ch then s.collide seg f q else s
    | none => s
  | _, _ => s

/-- COLLISION (R166). -/
def execCollision (seg : Segment) (position : Nat) (ch : LineChar) (s : State) : Host.Outcome State Fault Refusal :=
  .next (if s.inReset.isSome then s else s.readBack seg position ch)

/-- Every character of the head frame has been read back correctly: it has been sent (R166). -/
def State.frameSent (seg : Segment) (s : State) : State :=
  match (s.line seg).line, (s.line seg).queue with
  | .transmitting false, f :: q => (s.setLine seg ((s.line seg).headGone q)).reportSendEnd seg f
  | _, _ => s

/-- FRAME_SENT (R166). -/
def execFrameSent (seg : Segment) (s : State) : Host.Outcome State Fault Refusal :=
  .next (if s.inReset.isSome then s else s.frameSent seg)

/-- The character in progress of a frame that was removed completes: DE is released and the idle count restarts
(R164). -/
def Controller.cutOffDone (c : Controller) : Controller :=
  match c.line with
  | .transmitting true => { c with line := restState c.queue, idle := 0 }
  | .transmitting false | .disabled | .idle | .receiving _ | .waitGap | .backoff => c

/-- HEAD_FRAME_CUT_OFF (R164). -/
def execHeadFrameCutOff (seg : Segment) (s : State) : Host.Outcome State Fault Refusal :=
  .next (s.onLine seg Controller.cutOffDone)

/-! ### Pins (R155, R165, R203) -/

/-- DEA or DEB: high exactly while TRANSMITTING, and low during a reset. -/
def State.driverEnabled (s : State) (seg : Segment) : Bool :=
  s.inReset.isNone &&
    match (s.line seg).line with
    | .transmitting _ => true
    | .disabled | .idle | .receiving _ | .waitGap | .backoff => false

/-- What TXA or TXB carries between two events: a steady high level; the levels of a frame's characters one bit time each,
from its start; or the rest of the character in progress of a frame that was removed (R164). -/
inductive TransmitPin
  | high
  | sending (levels : List Bool)
  | lastCharacter
  deriving DecidableEq, Repr

/-- TXA or TXB: high whenever the driver enable is low; while TRANSMITTING the characters of the head frame, back to back
in the configured format (R156, R165, R203). -/
def State.transmitPin (s : State) (seg : Segment) : TransmitPin :=
  if s.driverEnabled seg then
    match (s.line seg).line, (s.line seg).queue with
    | .transmitting false, f :: _ => .sending (f.frame.bytes.flatMap (charLevels (s.line seg).format))
    | _, _ => .lastCharacter
  else .high

end Sys2Proof.Machine
end

