-- ==== Sys2Proof/Machine/Lookup.lean ====
section
/-! DEFINITION. RESOLVE, REVERSE, FIND, LIST and LIST-ACK (chapter 6), and frames of unknown kinds (R31). -/

namespace Sys2Proof.Machine

/-- The binding RESOLVE finds: OFFERED, BOUND or CONTESTED with X as its identity (R126). -/
def resolvable (x : Identity) (b : Binding) : Bool :=
  match b with
  | .offered h _ _ => decide (h.identity = x)
  | .bound h _ _ _ => decide (h.identity = x)
  | .contested h _ _ _ _ _ => decide (h.identity = x)
  | .free | .reserved _ | .held _ _ => false

/-- The holder of an OFFERED, BOUND or CONTESTED binding (the incumbent). -/
def Binding.holder? : Binding → Option Holder
  | .offered h _ _ => some h
  | .bound h _ _ _ => some h
  | .contested h _ _ _ _ _ => some h
  | .free | .reserved _ | .held _ _ => none

/-- R126: X, then address, state and class, or X and address 0. -/
def runResolve (x : Identity) (s : State) : Answer :=
  match s.findBinding (resolvable x) with
  | some a =>
    { state := s, status := .ok,
      rest := identityBytes x ++ [addrByte a, (s.binding a).state.code,
        match (s.binding a).holder? with | some h => h.cls | none => 0] }
  | none => { state := s, status := .ok, rest := identityBytes x ++ [0] }

/-- RESOLVE (R126). -/
def execResolve (seg : Segment) (s : State) : Host.Outcome State Fault Refusal :=
  .next (s.takeFrame (isKind kindResolve) seg (State.serveEither resolveBody? runResolve seg))

/-- What REVERSE discloses of the holder: identity, class and tag of a BOUND binding or of the incumbent of a CONTESTED
one (R127). -/
def disclosed : Binding → List Byte
  | .bound h _ _ _ => identityBytes h.identity ++ (h.cls :: tagField h.tag)
  | .contested h _ _ _ _ _ => identityBytes h.identity ++ (h.cls :: tagField h.tag)
  | .free | .reserved _ | .offered _ _ _ | .held _ _ => []

/-- R127. -/
def runReverse (a : Addr) (s : State) : Answer :=
  { state := s, status := .ok, rest := addrByte a :: (s.binding a).state.code :: disclosed (s.binding a) }

/-- REVERSE (R127). -/
def execReverse (seg : Segment) (s : State) : Host.Outcome State Fault Refusal :=
  .next (s.takeFrame (isKind kindReverse) seg (State.serveEither reverseBody? runReverse seg))

/-- R128: the first match from the start address up to 96, or address 0. -/
def runFind (_ : Segment) (_ : Addr) (body : Byte × Addr) (s : State) : Answer :=
  match s.matchesFrom body.1 (body.2.val + 1) with
  | e :: _ => { state := s, status := .ok, rest := e.bytes }
  | [] => { state := s, status := .ok, rest := [0] }

/-- FIND (R128). -/
def execFind (seg : Segment) (s : State) : Host.Outcome State Fault Refusal :=
  .next (s.takeFrame (isKind kindFind) seg (State.serveBound searchBody? runFind seg))

/-- R131: CONTESTED, BUSY, or OK with the generation number. -/
def runList (seg : Segment) (a : Addr) (_ : Byte × Addr) (s : State) : Answer :=
  match s.binding a with
  | .bound _ _ _ _ =>
    match s.listing seg with
    | some _ => { state := s, status := .busy }
    | none => { state := s, status := .ok, rest := le32 s.generation }
  | .free | .reserved _ | .offered _ _ _ | .held _ _ | .contested _ _ _ _ _ _ => { state := s, status := .contested }

/-- The accepted LIST starts the listing after its reply has been handed over (R131). -/
def State.serveList (seg : Segment) (f : Frame) (s : State) : State :=
  match addrOf? f.source with
  | none => s.turnAway seg f .badreq (badreqRest f)
  | some a =>
    s.serveAddressed searchBody? runList
      (fun g r body t => t.startListing g r f.sequence body.1 (body.2.val + 1)) a seg f

/-- LIST (R131). -/
def execList (seg : Segment) (s : State) : Host.Outcome State Fault Refusal :=
  .next (s.takeFrame (isKind kindList) seg (State.serveList seg))

/-- The listing unit decides an acknowledgement (R134). -/
def State.acknowledge (seg : Segment) (a : Addr) (body : List Byte) (s : State) : State :=
  match s.listing seg, body with
  | some l, [i] =>
    if l.requester = a ∧ i.toNat = l.built.index then
      if l.built.endFlag then s.endListing seg else s.advanceListing seg l
    else s
  | _, _ => s

/-- LIST-ACK passes the source tests and goes to the listing unit; it is never a retry and never cached (R38). -/
def State.serveListAck (seg : Segment) (f : Frame) (s : State) : State :=
  match addrOf? f.source with
  | none => s.turnAway seg f .badreq (badreqRest f)
  | some a =>
    if (s.binding a).isBound then s.acknowledge seg a f.body else s.turnAway seg f .unknown []

/-- LIST-ACK (R134). -/
def execListAck (seg : Segment) (s : State) : Host.Outcome State Fault Refusal :=
  .next (s.takeFrame (isKind kindListAck) seg (State.serveListAck seg))

/-- A kind that is none of the fourteen request kinds (R31). -/
def unknownKind (k : Byte) : Bool := !requestKinds.contains k

/-- 0x00 to 0x7F is answered BADREQ, 0x80 to 0xFF is discarded (R31). -/
def State.serveUnknownKind (seg : Segment) (f : Frame) (s : State) : State :=
  if f.kind.toNat < 0x80 then s.turnAway seg f .badreq [] else s

/-- A frame of an unknown kind (R31). -/
def execUnknownKindFrame (seg : Segment) (s : State) : Host.Outcome State Fault Refusal :=
  .next (s.takeFrame unknownKind seg (State.serveUnknownKind seg))

end Sys2Proof.Machine
end

