-- ==== Sys2Proof/Machine/Resets.lean ====
section
/-! DEFINITION. POWER_ON_RESET, PIN_RESET and RESET_END (R28, R188, R194, R203). -/

namespace Sys2Proof.Machine

/-- A reset takes the part: every block goes to its reset state, and the part is held until the reset ends. Until then the
cause recorded stays the former one (R203), and the commands that wait outside the part go on waiting. -/
def State.beginReset (c : ResetCause) (s : State) : State :=
  { State.reset with lastReset := s.lastReset, inReset := some c, pending := s.pending }

/-- POWER_ON_RESET (R203). -/
def execPowerOnReset (s : State) : Host.Outcome State Fault Refusal :=
  .next (s.beginReset .powerOn)

/-- PIN_RESET (R203). -/
def execPinReset (s : State) : Host.Outcome State Fault Refusal :=
  .next (s.beginReset .pin)

/-- The reset ends: its cause is recorded, and the timebase and ATTNn follow the state again (R203). -/
def State.endReset (s : State) : State :=
  match s.inReset with
  | some c => { s with lastReset := c, inReset := none }
  | none => s

/-- RESET_END (R203). -/
def execResetEnd (s : State) : Host.Outcome State Fault Refusal :=
  .next s.endReset

end Sys2Proof.Machine
end

