-- ==== Sys2Proof/Machine/SegmentCommands.lean ====
section
/-! DEFINITION. CONFIGURE-SEGMENT, ENABLE-SEGMENT, DISABLE-SEGMENT and CLEAR-SEGMENT-FLAGS (R163, R169 to R171). -/

namespace Sys2Proof.Machine

/-- Baud, parity, stop bits (R202). -/
def formatBytes (f : Format) : List Byte := [f.baud.code, f.parity.code, f.stop.code]

/-- R171: taken in DISABLED only. -/
def configureSegment (p : Segment × Format) (s : State) : HostAnswer :=
  if (s.line p.1).line.isDisabled then
    { state := s.setLine p.1 { s.line p.1 with format := p.2 }, status := .done, data := formatBytes p.2 }
  else failed .wrongState s

/-- CONFIGURE-SEGMENT (R171). -/
def execConfigureSegment (s : State) : Host.Outcome State Fault Refusal :=
  .next (s.runCommand (isCode codeConfigureSegment) (withParams configureParams? configureSegment))

/-- The controller enabled: IDLE, empty slots and queue, an idle count of 0; format and flags kept (R169). -/
def Controller.enable (c : Controller) : Controller :=
  if c.line.isDisabled then { c with line := .idle, ready := [], queue := [], collisions := 0, idle := 0 } else c

/-- The segment state after the command (R202). -/
def lineStateBytes (s : State) (seg : Segment) : List Byte := [(s.line seg).line.code]

/-- R169. -/
def enableSegment (seg : Segment) (s : State) : HostAnswer :=
  let t := s.setLine seg (s.line seg).enable
  { state := t, status := .done, data := lineStateBytes t seg }

/-- ENABLE-SEGMENT (R169). -/
def execEnableSegment (s : State) : Host.Outcome State Fault Refusal :=
  .next (s.runCommand (isCode codeEnableSegment) (withParams segmentParam? enableSegment))

/-- The controller disabled: DE released, slots and queue emptied, collision count cleared; format and flags kept
(R170). R170 gives the idle count no new value; 0 is the model's choice (log 4). -/
def Controller.disable (c : Controller) : Controller :=
  { c with line := .disabled, ready := [], queue := [], collisions := 0, idle := 0 }

/-- R170: an enabled segment is disabled, its listing is abandoned, and NOTICE-DROPPED is set when its queue held a
notice. -/
def State.disableLine (seg : Segment) (s : State) : State :=
  let c := s.line seg
  if c.line.isDisabled then s
  else
    let t := (s.setLine seg c.disable).setListing seg none
    if c.queue.any QueuedFrame.isNotice then t.setFactor .noticeDropped else t

/-- R170. -/
def disableSegment (seg : Segment) (s : State) : HostAnswer :=
  let t := s.disableLine seg
  { state := t, status := .done, data := lineStateBytes t seg }

/-- DISABLE-SEGMENT (R170). -/
def execDisableSegment (s : State) : Host.Outcome State Fault Refusal :=
  .next (s.runCommand (isCode codeDisableSegment) (withParams segmentParam? disableSegment))

/-- R163: the flags are reported as they stood, then those named are cleared. Bits 6 and 7 of the byte reported are log 19. -/
def clearSegmentFlags (p : Segment × BitVec 6) (s : State) : HostAnswer :=
  let c := s.line p.1
  { state := s.setLine p.1 { c with flags := c.flags &&& ~~~p.2 }, status := .done,
    data := c.line.code :: (formatBytes c.format ++ [segmentFlagsByte c.flags]) }

/-- CLEAR-SEGMENT-FLAGS (R163). -/
def execClearSegmentFlags (s : State) : Host.Outcome State Fault Refusal :=
  .next (s.runCommand (isCode codeClearSegmentFlags) (withParams clearFlagsParams? clearSegmentFlags))

end Sys2Proof.Machine
end

