-- ==== Sys2Proof/Machine/Timers.lean ====
section
/-! DEFINITION. The seconds boundary and the expiries of the directory timers (section 4.1, R65, R70, R86, R89, R101,
R123), and the acknowledgement timer of a listing (R135). -/

namespace Sys2Proof.Machine

/-! ### Expiries. Each acts when its count has fallen due at the running boundary, in RECALL or RUNNING (R79, R80). -/

/-- The offer at `a` lapses (R65, R11). -/
def State.lapseOffer (a : Addr) (s : State) : State :=
  match s.binding a with
  | .offered h o r => if r.due then commit s [] (s.returnOffer h o .lapse true a) else s
  | .free | .reserved _ | .bound _ _ _ _ | .held _ _ | .contested _ _ _ _ _ _ => s

/-- The lease at `a` expires (R86). -/
def State.expireLease (a : Addr) (s : State) : State :=
  match s.binding a with
  | .bound h (.timed g r) v _ => if r.due then commit s [] (s.giveUp h (.timed g r) v true a) else s
  | .bound _ .permanent _ _ | .free | .reserved _ | .offered _ _ _ | .held _ _ | .contested _ _ _ _ _ _ => s

/-- The hold at `a` expires (R89). -/
def State.expireHold (a : Addr) (s : State) : State :=
  match s.binding a with
  | .held _ r => if r.due then commit s [] (s.goFree .holdExpiry a) else s
  | .free | .reserved _ | .offered _ _ _ | .bound _ _ _ _ | .contested _ _ _ _ _ _ => s

/-- The contest at `a` expires and is settled as keep INCUMBENT settles it (R123, R120). -/
def State.expireContest (a : Addr) (s : State) : State :=
  match s.binding a with
  | .contested h l v _ c (some r) =>
    if r.due then
      commit s [a] ((s.keepIncumbent h l v a).sendVacate a c.identity c.segment .contestLost)
    else s
  | .contested _ _ _ _ _ none | .free | .reserved _ | .offered _ _ _ | .bound _ _ _ _ | .held _ _ => s

/-- The admission wait of X expires: the entry is removed, silently (R70). -/
def State.expireWait (x : Identity) (s : State) : State :=
  { s with admission := s.admission.filter (fun e => !(decide (e.identity = x) && e.wait.due)) }

/-- The recall window expires: the phase becomes RUNNING and RECALL-DONE is set (R101). -/
def State.expireRecall (s : State) : State :=
  match s.phase with
  | .recall r => if r.due then ({ s with phase := .running } : State).setFactor .recallDone else s
  | .stopped | .running => s

/-- Directory timers run: the phase is RECALL or RUNNING and no reset holds the part (R80, R203). -/
def State.timersRun (s : State) : Bool := s.inReset.isNone && !s.phase.isStopped

/-- An expiry row that names an address. -/
def State.atAddress (act : Addr → State → State) (b : Byte) (s : State) : State :=
  if s.timersRun then
    match addrOf? b with
    | some a => act a s
    | none => s
  else s

/-- OFFER_LAPSE (R65). -/
def execOfferLapse (address : Byte) (s : State) : Host.Outcome State Fault Refusal :=
  .next (s.atAddress State.lapseOffer address)

/-- LEASE_EXPIRY (R86). -/
def execLeaseExpiry (address : Byte) (s : State) : Host.Outcome State Fault Refusal :=
  .next (s.atAddress State.expireLease address)

/-- HOLD_EXPIRY (R89). -/
def execHoldExpiry (address : Byte) (s : State) : Host.Outcome State Fault Refusal :=
  .next (s.atAddress State.expireHold address)

/-- CONTEST_EXPIRY (R123). -/
def execContestExpiry (address : Byte) (s : State) : Host.Outcome State Fault Refusal :=
  .next (s.atAddress State.expireContest address)

/-- ADMISSION_WAIT_EXPIRY (R70). -/
def execAdmissionWaitExpiry (x : Identity) (s : State) : Host.Outcome State Fault Refusal :=
  .next (if s.timersRun then s.expireWait x else s)

/-- RECALL_WINDOW_EXPIRY (R101). -/
def execRecallWindowExpiry (s : State) : Host.Outcome State Fault Refusal :=
  .next (if s.timersRun then s.expireRecall else s)

/-! ### The seconds boundary (R79) -/

def Lease.tick : Lease → Lease
  | .timed g r => .timed g r.tick
  | .permanent => .permanent

/-- At most one timer runs in a binding: the offer, the lease of a BOUND binding, the hold, or the contest; a frozen lease
does not (R81). -/
def Binding.tick : Binding → Binding
  | .free => .free
  | .reserved r => .reserved r
  | .offered h o r => .offered h o r.tick
  | .bound h l v p => .bound h l.tick v p
  | .held former r => .held former r.tick
  | .contested h l v p c r => .contested h l v p c (r.map Countdown.tick)

def Phase.tick : Phase → Phase
  | .recall r => .recall r.tick
  | .stopped => .stopped
  | .running => .running

/-- Every running directory timer and every admission wait decreases by one; a count whose last second ends falls due. -/
def State.tick (s : State) : State :=
  { s with
    table := s.table.map Binding.tick
    phase := s.phase.tick
    admission := s.admission.map (fun e => { e with wait := e.wait.tick }) }

/-- Whichever expiry of the binding at `a` is due is applied. -/
def State.expireBinding (a : Addr) (s : State) : State :=
  match s.binding a with
  | .offered _ _ _ => s.lapseOffer a
  | .bound _ _ _ _ => s.expireLease a
  | .held _ _ => s.expireHold a
  | .contested _ _ _ _ _ _ => s.expireContest a
  | .free | .reserved _ => s

/-- Expiries of the boundary before that no row has applied yet are applied: an expiry belongs to its own boundary and
cannot wait for the next (R79; log 3). -/
def State.settleDue (s : State) : State :=
  let s1 := allAddrs.foldl (fun t a => t.expireBinding a) s
  ({ s1 with admission := s1.admission.filter (fun e => !e.wait.due) } : State).expireRecall

/-- The bookkeeping of a new boundary. -/
def State.openBoundary (s : State) : State :=
  { s with boundary := { Boundary.none with holds := s.holdQueue } }

/-- One seconds boundary. In STOPPED it still occurs, and decreases nothing (R80); during a reset the timebase does not
run (R203). -/
def State.secondsBoundary (s : State) : State :=
  if s.inReset.isSome then s
  else if s.phase.isStopped then s.openBoundary
  else s.settleDue.openBoundary.tick

/-- SECONDS_BOUNDARY (R79). -/
def execSecondsBoundary (s : State) : Host.Outcome State Fault Refusal :=
  .next s.secondsBoundary

/-! ### The acknowledgement timer (R135) -/

/-- The running timer runs out: a resend after sends 1 to 3, abandonment and LISTING-ABANDONED after the fourth. -/
def State.ackTimeout (seg : Segment) (s : State) : State :=
  match s.listing seg with
  | none => s
  | some l =>
    match l.timer with
    | none => s
    | some _ =>
      if l.sends < Config.listingSends then
        (s.setListing seg (some { l with sends := l.sends + 1, timer := none })).sendListing seg
      else (s.endListing seg).setFactor .listingAbandoned

/-- ACK_TIMER_EXPIRY (R135). -/
def execAckTimerExpiry (seg : Segment) (s : State) : Host.Outcome State Fault Refusal :=
  .next (if s.inReset.isSome then s else s.ackTimeout seg)

end Sys2Proof.Machine
end

