-- ==== Sys2Proof/Machine/Dispatch.lean ====
section
/-! DEFINITION. One arm per command. -/

namespace Sys2Proof.Machine

def exec (i : Instr) (s : State) : Host.Outcome State Fault Refusal :=
  match i with
  | .ask seg => Sys2Proof.Machine.execAsk seg s
  | .take seg => Sys2Proof.Machine.execTake seg s
  | .claim seg => Sys2Proof.Machine.execClaim seg s
  | .renew seg => Sys2Proof.Machine.execRenew seg s
  | .release seg => Sys2Proof.Machine.execRelease seg s
  | .retag seg => Sys2Proof.Machine.execRetag seg s
  | .resolve seg => Sys2Proof.Machine.execResolve seg s
  | .reverse seg => Sys2Proof.Machine.execReverse seg s
  | .find seg => Sys2Proof.Machine.execFind seg s
  | .list seg => Sys2Proof.Machine.execList seg s
  | .listAck seg => Sys2Proof.Machine.execListAck seg s
  | .join seg => Sys2Proof.Machine.execJoin seg s
  | .leave seg => Sys2Proof.Machine.execLeave seg s
  | .members seg => Sys2Proof.Machine.execMembers seg s
  | .unknownKindFrame seg => Sys2Proof.Machine.execUnknownKindFrame seg s
  | .secondsBoundary => Sys2Proof.Machine.execSecondsBoundary s
  | .offerLapse address => Sys2Proof.Machine.execOfferLapse address s
  | .leaseExpiry address => Sys2Proof.Machine.execLeaseExpiry address s
  | .holdExpiry address => Sys2Proof.Machine.execHoldExpiry address s
  | .contestExpiry address => Sys2Proof.Machine.execContestExpiry address s
  | .admissionWaitExpiry identity => Sys2Proof.Machine.execAdmissionWaitExpiry identity s
  | .recallWindowExpiry => Sys2Proof.Machine.execRecallWindowExpiry s
  | .ackTimerExpiry seg => Sys2Proof.Machine.execAckTimerExpiry seg s
  | .characterReceived seg ch => Sys2Proof.Machine.execCharacterReceived seg ch s
  | .frameEnd seg => Sys2Proof.Machine.execFrameEnd seg s
  | .transmissionStart seg => Sys2Proof.Machine.execTransmissionStart seg s
  | .backoffExpiry seg => Sys2Proof.Machine.execBackoffExpiry seg s
  | .collision seg position ch => Sys2Proof.Machine.execCollision seg position ch s
  | .frameSent seg => Sys2Proof.Machine.execFrameSent seg s
  | .headFrameCutOff seg => Sys2Proof.Machine.execHeadFrameCutOff seg s
  | .statusRead edge => Sys2Proof.Machine.execStatusRead edge s
  | .fetch edge => Sys2Proof.Machine.execFetch edge s
  | .commandFrame edge => Sys2Proof.Machine.execCommandFrame edge s
  | .unknownCommand => Sys2Proof.Machine.execUnknownCommand s
  | .configureSegment => Sys2Proof.Machine.execConfigureSegment s
  | .enableSegment => Sys2Proof.Machine.execEnableSegment s
  | .disableSegment => Sys2Proof.Machine.execDisableSegment s
  | .clearSegmentFlags => Sys2Proof.Machine.execClearSegmentFlags s
  | .setPolicy => Sys2Proof.Machine.execSetPolicy s
  | .start => Sys2Proof.Machine.execStart s
  | .stop => Sys2Proof.Machine.execStop s
  | .clear => Sys2Proof.Machine.execClear s
  | .readRecord => Sys2Proof.Machine.execReadRecord s
  | .findIdentity => Sys2Proof.Machine.execFindIdentity s
  | .reserve => Sys2Proof.Machine.execReserve s
  | .unreserve => Sys2Proof.Machine.execUnreserve s
  | .evict => Sys2Proof.Machine.execEvict s
  | .modify => Sys2Proof.Machine.execModify s
  | .resolveContest => Sys2Proof.Machine.execResolveContest s
  | .readAdmission => Sys2Proof.Machine.execReadAdmission s
  | .approve => Sys2Proof.Machine.execApprove s
  | .deny => Sys2Proof.Machine.execDeny s
  | .bar => Sys2Proof.Machine.execBar s
  | .unbar => Sys2Proof.Machine.execUnbar s
  | .readBarred => Sys2Proof.Machine.execReadBarred s
  | .openGroup => Sys2Proof.Machine.execOpenGroup s
  | .closeGroup => Sys2Proof.Machine.execCloseGroup s
  | .addMember => Sys2Proof.Machine.execAddMember s
  | .removeMember => Sys2Proof.Machine.execRemoveMember s
  | .readGroup => Sys2Proof.Machine.execReadGroup s
  | .collect => Sys2Proof.Machine.execCollect s
  | .readFactors => Sys2Proof.Machine.execReadFactors s
  | .clearFactors => Sys2Proof.Machine.execClearFactors s
  | .setEnables => Sys2Proof.Machine.execSetEnables s
  | .readStatus => Sys2Proof.Machine.execReadStatus s
  | .powerOnReset => Sys2Proof.Machine.execPowerOnReset s
  | .pinReset => Sys2Proof.Machine.execPinReset s
  | .resetEnd => Sys2Proof.Machine.execResetEnd s

end Sys2Proof.Machine
end

