-- ==== Sys2Proof/Safety.lean ====
section
/-! DEFINITION. The laws the spec says hold at every moment, each a predicate of a state, and the words the statements are
written with: a request that stands ready, a command in execution, a reply handed over, records counted. -/

namespace Sys2Proof.Machine

/-! ### Laws of the table and its queues -/

/-- Each address is in the free queue exactly when its binding is FREE and in the hold queue exactly when it is HELD, never
twice (R19). -/
abbrev State.QueuesAgree (s : State) : Prop :=
  ∀ a : Addr, s.freeQueue.count a = (if (s.binding a).state = .free then 1 else 0)
    ∧ s.holdQueue.count a = (if (s.binding a).state = .held then 1 else 0)

/-- The identities that stand in a binding: its identity and its challenger's (R6). -/
def Binding.parties : Binding → List Identity
  | .free => []
  | .reserved r => [r.identity]
  | .offered h _ _ => [h.identity]
  | .bound h _ _ _ => [h.identity]
  | .held former _ => (former.map (·.identity)).toList
  | .contested h _ _ _ c _ => [h.identity, c.identity]

/-- An identity stands in at most one binding (R6), and is never all 0x00 or all 0xFF (R4). -/
abbrev State.IdentitiesStandOnce (s : State) : Prop :=
  (∀ a : Addr, (s.binding a).parties.Nodup ∧ ∀ x ∈ (s.binding a).parties, validIdentity x = true)
    ∧ ∀ a b : Addr, a ≠ b → ∀ x ∈ (s.binding a).parties, x ∉ (s.binding b).parties

/-- Wherever the identity stands, it stands in a RESERVED binding. -/
abbrev State.onlyReserved (x : Identity) (s : State) : Prop :=
  ∀ a : Addr, x ∈ (s.binding a).parties → (s.binding a).state = .reserved

/-- At most 8 entries, of identities that differ, are not barred and stand, if at all, in a RESERVED binding (R69). -/
abbrev State.AdmissionLawful (s : State) : Prop :=
  s.admission.length ≤ 8 ∧ (s.admission.map (·.identity)).Nodup
    ∧ ∀ e ∈ s.admission, e.identity ∉ s.barred ∧ validIdentity e.identity = true ∧ s.onlyReserved e.identity

/-- At most 16 identities without duplicates, in the ascending order in which R74 reads them (that the set is stored in it is
log 15), none standing in an OFFERED, BOUND, HELD or CONTESTED binding (R56, R74). -/
abbrev State.BarredLawful (s : State) : Prop :=
  s.barred.length ≤ 16 ∧ s.barred.Nodup ∧ s.barred.Pairwise (fun x y => identityKey x < identityKey y)
    ∧ ∀ x ∈ s.barred, s.onlyReserved x

/-- The three laws that keep one another (R6, R69, R74). -/
abbrev State.IdentitiesLawful (s : State) : Prop :=
  s.IdentitiesStandOnce ∧ s.AdmissionLawful ∧ s.BarredLawful

/-- The count of OFFERED bindings stays within the offer limit (R66); in RECALL no binding is OFFERED and the admission
queue is empty (R78). -/
abbrev State.OffersLimited (s : State) : Prop :=
  s.offeredCount ≤ s.policy.offerLimit ∧ (s.phase.isRecall = true → s.offeredCount = 0 ∧ s.admission = [])

/-! ### Counts (R2, R16, R17, R79, R80) -/

/-- A running count lies in its range, and falls due only in its last second and outside STOPPED. -/
abbrev Countdown.within (low high : Nat) (stopped : Bool) (c : Countdown) : Prop :=
  low ≤ c.remaining ∧ c.remaining ≤ high ∧ (c.due = true → c.remaining = 1 ∧ stopped = false)

def Lease.lawful (stopped : Bool) : Lease → Bool
  | .timed g r => decide (10 ≤ g ∧ g ≤ 65535 ∧ r.within 1 g stopped)
  | .permanent => true

/-- The counts of a record are in their ranges (R2), lease remaining does not exceed lease granted (R16), and a frozen lease
is not due (R14). -/
def Binding.countsLawful (stopped : Bool) : Binding → Bool
  | .free => true
  | .reserved _ => true
  | .offered _ _ r => decide (r.within 1 60 stopped)
  | .bound _ l _ _ => l.lawful stopped
  | .held _ r => decide (r.within 1 3600 stopped)
  | .contested _ l _ _ _ none => l.lawful true
  | .contested _ l _ _ _ (some r) => l.lawful true && decide (r.within 1 3600 stopped)

def Phase.countLawful : Phase → Bool
  | .recall r => decide (r.within 1 60 false)
  | .stopped | .running => true

/-- Every count the part holds is in its range, and the policy is one SET-POLICY accepts (R79, R184). -/
abbrev State.CountsLawful (s : State) : Prop :=
  s.policy.inRange = true ∧ s.phase.countLawful = true
    ∧ (∀ a : Addr, (s.binding a).countsLawful s.phase.isStopped = true)
    ∧ ∀ e ∈ s.admission, e.wait.within 1 600 s.phase.isStopped

/-! ### Groups -/

def GroupRecord.lawful : GroupRecord → Bool
  | .unused => true
  | .opened limit _ m => decide (1 ≤ limit ∧ limit ≤ 12 ∧ m.length ≤ limit ∧ m.Nodup)

/-- The member entries in use and the free ones number 128 (R142); no list holds an address twice or exceeds its limit
(R143). -/
abbrev State.PoolAccounts (s : State) : Prop :=
  s.poolFree + (allGroups.map (fun g => (s.group g).members.length)).sum = Config.poolSize
    ∧ ∀ g : GroupNo, (s.group g).lawful = true

/-- The bindings a member may have: BOUND, CONTESTED, HELD with identity, or OFFERED of origin HELD (R142, R152). -/
def Binding.mayBelong : Binding → Bool
  | .bound _ _ _ _ | .contested _ _ _ _ _ _ | .held (some _) _ | .offered _ .held _ => true
  | .free | .reserved _ | .held none _ | .offered _ .free _ | .offered _ (.reserved _) _ => false

/-- Every member entry names an address whose binding may belong to a group (R142). -/
abbrev State.MembersStand (s : State) : Prop :=
  ∀ g : GroupNo, ∀ a ∈ (s.group g).members, (s.binding a).mayBelong = true

/-! ### Segment line controllers and listings -/

def LineState.isFilling : LineState → Bool
  | .receiving r => decide (r.following = .stored)
  | .disabled | .idle | .waitGap | .transmitting _ | .backoff => false

/-- What each segment state says of the queue and the collision count (R155, R158, R164, R167). -/
def Controller.stateLawful (c : Controller) : Bool :=
  match c.line with
  | .disabled => c.queue.isEmpty && c.ready.isEmpty && decide (c.collisions = 0)
  | .idle => c.queue.isEmpty && decide (c.collisions = 0)
  | .receiving _ => !c.queue.isEmpty || decide (c.collisions = 0)
  | .waitGap => !c.queue.isEmpty && decide (c.collisions = 0)
  | .transmitting cut => !c.queue.isEmpty && (!cut || decide (c.collisions = 0))
  | .backoff => !c.queue.isEmpty && decide (c.collisions ≠ 0)

/-- At most 2 frames wait in the receive slots, the filling one included (R160), at most 4 in the transmit queue (R164), and
the head frame has collided at most 3 times (R167). -/
abbrev Controller.Lawful (c : Controller) : Prop :=
  c.ready.length + (if c.line.isFilling then 1 else 0) ≤ 2 ∧ c.queue.length ≤ 4 ∧ c.collisions ≤ 3
    ∧ c.stateLawful = true

abbrev State.LinesLawful (s : State) : Prop := ∀ seg ∈ [Segment.a, Segment.b], (s.line seg).Lawful

/-- A listing runs outside STOPPED, on an enabled segment, for a bound requester (R131, R137); its sends number 1 to 4, its
index is at most 23 (R130, R132), and its timer is stopped exactly while one copy of its frame waits in the queue (R133). -/
def State.listingLawful (s : State) (seg : Segment) : Bool :=
  match s.listing seg with
  | none => decide ((s.line seg).queue.countP QueuedFrame.isAwaited = 0)
  | some l =>
    !s.phase.isStopped && s.enabled seg && (s.binding l.requester).isBound
      && decide (1 ≤ l.sends ∧ l.sends ≤ 4 ∧ l.built.index ≤ 23 ∧ l.built.entries.length ≤ 4
        ∧ 4 * l.built.index + 1 ≤ l.next ∧ (l.built.endFlag = false → 4 * l.built.index + 5 ≤ l.next) ∧ l.next ≤ 96)
      && decide ((s.line seg).queue.countP QueuedFrame.isAwaited = if l.timer.isNone then 1 else 0)

abbrev State.ListingsLawful (s : State) : Prop := ∀ seg ∈ [Segment.a, Segment.b], s.listingLawful seg = true

/-! ### Generation number and change set -/

/-- The change set is in order without duplicates (R27), and is empty while no record has changed (R26). -/
abbrev State.MarksLawful (s : State) : Prop :=
  s.marks.Pairwise (fun m n => m.code.toNat < n.code.toNat) ∧ (s.generation = 0 → s.marks = [])

/-! ### Frames and replies fit -/

/-- Every tag of a record is at most 8 bytes (R2), and a cached reply's body at most 40 (R2, R37). -/
def Binding.fits : Binding → Bool
  | .free => true
  | .reserved r => decide (r.tag.length ≤ 8)
  | .offered h _ _ => decide (h.tag.length ≤ 8)
  | .bound h _ _ p => decide (h.tag.length ≤ 8) && p.all (fun r => decide (r.rest.length ≤ 39))
  | .held former _ => former.all (fun h => decide (h.tag.length ≤ 8))
  | .contested h _ _ p _ _ => decide (h.tag.length ≤ 8) && p.all (fun r => decide (r.rest.length ≤ 39))

/-- What the port holds fits its frames: 32 parameter bytes (R176), 61 data bytes (R178). -/
def PortState.fits : PortState → Bool
  | .idle => true
  | .executing _ params => decide (params.length ≤ 32)
  | .ready r => decide (r.data.length ≤ 61)

/-- Every frame that waits to be sent has source 0xFE and a body of at most 40 bytes (R37, R47, R195); the frames received
that wait have a body of at most 40 bytes and a valid source (R161); a reply of the port is at most 64 bytes long (R178). -/
abbrev State.FramesFit (s : State) : Prop :=
  (∀ a : Addr, (s.binding a).fits = true) ∧ (∀ e ∈ s.admission, e.tag.length ≤ 8) ∧ s.port.state.fits = true
    ∧ ∀ seg ∈ [Segment.a, Segment.b],
      (∀ q ∈ (s.line seg).queue, q.frame.source = directoryAddress ∧ q.frame.body.length ≤ 40)
        ∧ (∀ f ∈ (s.line seg).ready, f.body.length ≤ 40 ∧ sourceOk f.source = true)
        ∧ (∀ l ∈ (s.listing seg).toList, l.built.entries.length ≤ 4)

/-! ### The words of the statements: station requests -/

/-- The row that takes a frame of a kind from the receive slots of a segment (R30, R32). -/
def requestRow (k : Byte) (seg : Segment) : Instr :=
  if k = kindAsk then .ask seg else if k = kindTake then .take seg else if k = kindClaim then .claim seg
  else if k = kindRenew then .renew seg else if k = kindRelease then .release seg else if k = kindRetag then .retag seg
  else if k = kindResolve then .resolve seg else if k = kindReverse then .reverse seg else if k = kindFind then .find seg
  else if k = kindList then .list seg else if k = kindListAck then .listAck seg else if k = kindJoin then .join seg
  else if k = kindLeave then .leave seg else if k = kindMembers then .members seg else .unknownKindFrame seg

/-- The kinds that take part in the sequence mechanism from a bound source (R41). -/
def sequenceKinds : List Byte :=
  [kindRenew, kindRelease, kindRetag, kindResolve, kindReverse, kindFind, kindList, kindJoin, kindLeave, kindMembers]

/-- The kinds that a contested address may not make (R46). -/
def contestedKinds : List Byte := [kindRenew, kindRelease, kindRetag, kindList, kindJoin, kindLeave]

/-- The source is outside the class of the kind (R32). -/
def wrongSource (f : Frame) : Bool :=
  if f.kind = kindAsk ∨ f.kind = kindTake then decide (f.source ≠ 0)
  else if f.kind = kindResolve ∨ f.kind = kindReverse ∨ f.kind = kindMembers then
    decide (f.source ≠ 0) && (addrOf? f.source).isNone
  else (addrOf? f.source).isNone

/-- The body is one the kind can use (R34). LIST-ACK has none it cannot. -/
def bodyAccepted (f : Frame) : Bool :=
  if f.kind = kindAsk then (askBody? f.body).isSome else if f.kind = kindTake then (takeBody? f.body).isSome
  else if f.kind = kindClaim then (claimBody? f.body).isSome else if f.kind = kindRenew then (renewBody? f.body).isSome
  else if f.kind = kindRelease then (emptyBody? f.body).isSome else if f.kind = kindRetag then (retagBody? f.body).isSome
  else if f.kind = kindResolve then (resolveBody? f.body).isSome
  else if f.kind = kindReverse then (reverseBody? f.body).isSome
  else if f.kind = kindFind ∨ f.kind = kindList then (searchBody? f.body).isSome
  else if f.kind = kindJoin ∨ f.kind = kindLeave ∨ f.kind = kindMembers then (groupBody? f.body).isSome else true

/-- The directory serves: no reset holds the part and the phase is RECALL or RUNNING. -/
def State.serving (s : State) : Prop := s.inReset = none ∧ s.phase.isStopped = false

/-- The frame stands first in the receive slots of the segment, with `rest` behind it, and will be served (R30). -/
def State.serves (s : State) (seg : Segment) (f : Frame) (rest : List Frame) : Prop :=
  s.serving ∧ (s.line seg).ready = f :: rest

/-- The receive slot of the frame taken is freed (R30). -/
def State.freed (seg : Segment) (rest : List Frame) (s : State) : State :=
  s.setLine seg { s.line seg with ready := rest }

/-- The slot is freed and the reply handed over: all that a request does which changes no record and is not cached
(R30, R36, R50). -/
def State.answered (seg : Segment) (f : Frame) (rest : List Frame) (status : Status) (body : List Byte) (s : State) : State :=
  (s.freed seg rest).handReply seg (replyTo f status body)

/-- The same, with last sequence and cached reply written into the record of the bound source (R43). -/
def State.answeredCached (seg : Segment) (f : Frame) (rest : List Frame) (a : Addr) (status : Status) (body : List Byte)
    (s : State) : State :=
  ((s.freed seg rest).cacheReply a ⟨f.sequence, replyKind f.kind, status, body⟩).handReply seg (replyTo f status body)

/-- The request comes from the bound address `a` and is no retry (R33, R42). -/
def State.newFrom (s : State) (f : Frame) (a : Addr) : Prop :=
  addrOf? f.source = some a ∧ (s.binding a).isBound = true ∧ s.retryOf a f = none

/-- A lookup of the Either class may be executed: from 0x00, or from a bound address and no retry (R32, R42). -/
def State.mayLookUp (s : State) (f : Frame) : Prop := f.source = 0 ∨ ∃ a, s.newFrom f a

/-- The answer to a lookup: cached when the source is bound, afresh each time from 0x00 (R43). -/
def State.lookedUp (seg : Segment) (f : Frame) (rest : List Frame) (status : Status) (body : List Byte) (s : State) : State :=
  match addrOf? f.source with
  | none => s.answered seg f rest status body
  | some a => s.answeredCached seg f rest a status body

/-- The pair that an executed request from a bound source leaves (R43). -/
def Frame.pair (f : Frame) (status : Status) (body : List Byte) : Option Replay :=
  some ⟨f.sequence, replyKind f.kind, status, body⟩

/-! ### The words of the statements: host commands -/

/-- The row that completes a command by its code (R181 to R183). -/
def commandRow (k : Byte) : Instr :=
  if k = codeConfigureSegment then .configureSegment else if k = codeEnableSegment then .enableSegment
  else if k = codeDisableSegment then .disableSegment else if k = codeClearSegmentFlags then .clearSegmentFlags
  else if k = codeSetPolicy then .setPolicy else if k = codeStart then .start else if k = codeStop then .stop
  else if k = codeClear then .clear else if k = codeReadRecord then .readRecord
  else if k = codeFindIdentity then .findIdentity else if k = codeReserve then .reserve
  else if k = codeUnreserve then .unreserve else if k = codeEvict then .evict else if k = codeModify then .modify
  else if k = codeResolveContest then .resolveContest else if k = codeReadAdmission then .readAdmission
  else if k = codeApprove then .approve else if k = codeDeny then .deny else if k = codeBar then .bar
  else if k = codeUnbar then .unbar else if k = codeReadBarred then .readBarred else if k = codeOpenGroup then .openGroup
  else if k = codeCloseGroup then .closeGroup else if k = codeAddMember then .addMember
  else if k = codeRemoveMember then .removeMember else if k = codeReadGroup then .readGroup
  else if k = codeCollect then .collect else if k = codeReadFactors then .readFactors
  else if k = codeClearFactors then .clearFactors else if k = codeSetEnables then .setEnables
  else if k = codeReadStatus then .readStatus else .unknownCommand

/-- The parameters are ones the command accepts: their length, and every value in its range (R179, R200). -/
def paramsAccepted (k : Byte) (ps : List Byte) : Bool :=
  if k = codeConfigureSegment then (configureParams? ps).isSome
  else if k = codeEnableSegment ∨ k = codeDisableSegment then (segmentParam? ps).isSome
  else if k = codeClearSegmentFlags then (clearFlagsParams? ps).isSome
  else if k = codeSetPolicy then ps.isEmpty || (policyParams? ps).isSome
  else if k = codeStart then (startParam? ps).isSome else if k = codeClear then (clearParams? ps).isSome
  else if k = codeReadRecord ∨ k = codeUnreserve ∨ k = codeEvict then (addrParam? ps).isSome
  else if k = codeFindIdentity ∨ k = codeApprove ∨ k = codeBar ∨ k = codeUnbar then (identityParam? ps).isSome
  else if k = codeReserve then (reserveParams? ps).isSome else if k = codeModify then (modifyParams? ps).isSome
  else if k = codeResolveContest then (resolveContestParams? ps).isSome
  else if k = codeReadAdmission then (positionParam? ps).isSome else if k = codeDeny then (denyParams? ps).isSome
  else if k = codeReadBarred then (barredIndexParam? ps).isSome
  else if k = codeOpenGroup then (openGroupParams? ps).isSome
  else if k = codeCloseGroup ∨ k = codeReadGroup then (groupParam? ps).isSome
  else if k = codeAddMember ∨ k = codeRemoveMember then (memberParams? ps).isSome
  else if k = codeClearFactors ∨ k = codeSetEnables then (factorParam? ps).isSome
  else ps.isEmpty

/-- A command with this code and these parameters is in execution (R175, R179). -/
def State.executing (s : State) (code : Byte) (params : List Byte) : Prop :=
  s.inReset = none ∧ s.port.state = .executing code params

/-- The port holds this reply, and is READY (R179). -/
def State.replied (status : HostStatus) (data : List Byte) (s : State) : State :=
  s.setPort { s.port with state := .ready ⟨status, data⟩ }

/-! ### The words of the statements: what becomes of a record -/

/-- The count that runs in the binding has reached the end of its last second (R79, R81). -/
def Binding.due : Binding → Bool
  | .offered _ _ r => r.due
  | .bound _ (.timed _ r) _ _ => r.due
  | .held _ r => r.due
  | .contested _ _ _ _ _ (some r) => r.due
  | .bound _ .permanent _ _ | .contested _ _ _ _ _ none | .free | .reserved _ => false

/-- Every binding but that of `a` is as it was. -/
def othersKept (s t : State) (a : Addr) : Prop := ∀ b, b ≠ a → t.binding b = s.binding b

/-- The offer at `a`, of this origin, lapses at the running boundary (R65). -/
def State.lapses (s : State) (a : Addr) (o : Origin) : Prop :=
  ∃ h r, s.binding a = .offered h o r ∧ r.due = true

/-- The hold at `a` expires at the running boundary (R89). -/
def State.holdEnds (s : State) (a : Addr) : Prop := ∃ o r, s.binding a = .held o r ∧ r.due = true

/-- The row `i`, for the address `a` of byte `b`, ends what leads to HELD at the running boundary: the lease of a binding that is
not reserved, or an offer of origin HELD (R22). -/
def State.endsTenure (s : State) (b : Byte) (a : Addr) (i : Instr) : Prop :=
  (i = .leaseExpiry b ∧ ∃ h g r p, s.binding a = .bound h (.timed g r) false p ∧ r.due = true)
    ∨ (i = .offerLapse b ∧ s.lapses a .held)

/-- The generation number and the change set of `t` are those of `s` with the records counted that differ between them, or
to which a lease was granted (R25 to R27). -/
def counted (s t : State) (granted : List Addr) : Prop :=
  t.generation = (s.recordChanges (changedRecords s t granted)).generation
    ∧ t.marks = (s.recordChanges (changedRecords s t granted)).marks

/-- Every listing whose requester is the address is abandoned (R137). -/
def State.withoutListingsOf (a : Addr) (s : State) : State :=
  let drop := fun (seg : Segment) (t : State) =>
    match t.listing seg with
    | none => t
    | some l => if l.requester = a then t.endListing seg else t
  drop .b (drop .a s)

/-- `t` is `u` but for the record of `a`, which is `b`, and for what that counts. -/
def rewrites (s u t : State) (a : Addr) (b : Binding) (granted : List Addr) : Prop :=
  t = { u with table := t.table, generation := t.generation, marks := t.marks }
    ∧ t.binding a = b ∧ othersKept s t a ∧ counted s t granted

/-- `t` is `u` but for the record of `a`, which is `b`, for the two address queues, the memberships, and what that counts. -/
def moves (s u t : State) (a : Addr) (b : Binding) (granted : List Addr) : Prop :=
  t = { u with
        table := t.table, freeQueue := t.freeQueue, holdQueue := t.holdQueue, boundary := t.boundary
        groups := t.groups, poolFree := t.poolFree, generation := t.generation, marks := t.marks }
    ∧ t.binding a = b ∧ othersKept s t a ∧ counted s t granted

def membershipsKept (s t : State) : Prop := t.groups = s.groups ∧ t.poolFree = s.poolFree

/-- The address has left every group, and its entries are back in the pool (R152). -/
def membershipsDropped (s t : State) (a : Addr) : Prop :=
  (∀ g, t.group g = (s.group g).drop a) ∧ t.poolFree = s.poolFree + s.entriesOf a

/-- The address stands in neither queue; the others keep their order (R21, R23). -/
def leavesQueues (s t : State) (a : Addr) : Prop :=
  t.freeQueue = dropAddr a s.freeQueue ∧ t.holdQueue = dropAddr a s.holdQueue

/-- The binding goes to FREE at the head of the free queue (R7). -/
def goesFreeHead (s u t : State) (a : Addr) : Prop :=
  moves s u t a .free [] ∧ t.freeQueue = a :: dropAddr a s.freeQueue ∧ t.holdQueue = dropAddr a s.holdQueue
    ∧ membershipsDropped s t a

/-- The binding goes to FREE at the tail of the free queue (R7). -/
def goesFreeTail (s u t : State) (a : Addr) : Prop :=
  moves s u t a .free [] ∧ t.freeQueue = dropAddr a s.freeQueue ++ [a] ∧ t.holdQueue = dropAddr a s.holdQueue
    ∧ membershipsDropped s t a

/-- The binding goes to RESERVED (R13). -/
def goesReserved (s u t : State) (a : Addr) (r : Reservation) : Prop :=
  moves s u t a (.reserved r) [] ∧ leavesQueues s t a ∧ membershipsDropped s t a

/-- The binding goes to HELD with identity at the tail of the hold queue, or to FREE when the hold period is 0 (R8). -/
def goesHeldWith (s u t : State) (a : Addr) (h : Holder) : Prop :=
  if s.policy.holdPeriod = 0 then goesFreeTail s u t a
  else
    moves s u t a (.held (some h) (Countdown.fresh s.policy.holdPeriod)) []
      ∧ t.freeQueue = dropAddr a s.freeQueue ∧ t.holdQueue = dropAddr a s.holdQueue ++ [a] ∧ membershipsKept s t

/-- The binding goes to HELD anonymous at the tail of the hold queue, or to FREE when the hold period is 0 (R8). -/
def goesHeldAnonymous (s u t : State) (a : Addr) : Prop :=
  if s.policy.holdPeriod = 0 then goesFreeTail s u t a
  else
    moves s u t a (.held none (Countdown.fresh s.policy.holdPeriod)) []
      ∧ t.freeQueue = dropAddr a s.freeQueue ∧ t.holdQueue = dropAddr a s.holdQueue ++ [a] ∧ membershipsDropped s t a

/-- A holder gives its binding up: RESERVED when the reserved attribute is yes, else HELD with identity or FREE
(R86, R88). -/
def givesUp (s u t : State) (a : Addr) (h : Holder) (l : Lease) (reserved : Bool) : Prop :=
  if reserved then goesReserved s u t a (h.reservation l.kind) else goesHeldWith s u t a h

/-- A holder is expelled: RESERVED when the reserved attribute is yes, else HELD anonymous or FREE (R76, R91, R122). -/
def expels (s u t : State) (a : Addr) (h : Holder) (l : Lease) (reserved : Bool) : Prop :=
  if reserved then goesReserved s u t a (h.reservation l.kind) else goesHeldAnonymous s u t a

/-- EVICT or BAR sends an offer back to its origin (R11). -/
def revokes (s u t : State) (a : Addr) (h : Holder) (o : Origin) : Prop :=
  match o with
  | .free => goesFreeHead s u t a
  | .held => goesHeldAnonymous s u t a
  | .reserved k => goesReserved s u t a (h.reservation k)

/-- A HELD binding with identity becomes anonymous (R9). -/
def becomesAnonymous (s u t : State) (a : Addr) (r : Countdown) : Prop :=
  moves s u t a (.held none r) [] ∧ t.freeQueue = s.freeQueue ∧ t.holdQueue = s.holdQueue ∧ membershipsDropped s t a

/-- An offer of `a` is made: the address leaves its queue, and the identity's admission entry is removed (R10, R69). -/
def offers (s u t : State) (a : Addr) (h : Holder) (o : Origin) : Prop :=
  moves s { u with admission := s.admission.filter (fun e => decide (e.identity ≠ h.identity)) } t a
      (.offered h o (Countdown.fresh s.policy.offerWindow)) []
    ∧ leavesQueues s t a

/-- The identity joins the barred set and its admission entry, if any, is removed (R72, R75). -/
def State.barring (x : Identity) (s : State) : State := (s.addBarred x).removeEntry x

/-- The lease of the keeper of a settled contest: PERMANENT for a permanent reservation, else the default lease (R12). -/
def State.keeperLease (s : State) (l : Lease) (reserved : Bool) : Lease :=
  if reserved = true ∧ l.kind = .permanent then .permanent
  else .timed s.policy.defaultLease ⟨s.policy.defaultLease, false⟩

/-- `t` is `u` but for the record of a group, which is `r`, for the free pool entries, and for what that counts. -/
def regroups (s u t : State) (g : GroupNo) (r : GroupRecord) : Prop :=
  t = { u with groups := t.groups, poolFree := t.poolFree, generation := t.generation, marks := t.marks }
    ∧ t.group g = r ∧ (∀ k, k ≠ g → t.group k = s.group k) ∧ counted s t []

/-! ### The words of the statements: lines -/

/-- The commands run one after the other take `s` to `t`, each answering a next state. -/
def runs : List Instr → State → State → Prop
  | [], s, t => t = s
  | c :: cs, s, t => ∃ u, exec c s = .next u ∧ runs cs u t

/-- A character in error: its first stop bit reads low, or its parity is wrong (R157). -/
def inError (f : Format) (ch : LineChar) : Bool := framingError ch || parityError f ch

/-- WAIT-GAP when the queue holds a frame, IDLE when it does not (R155). -/
def waitState (q : List QueuedFrame) : LineState := if q = [] then .idle else .waitGap

/-- The controller after a frame end: it has left RECEIVING, and the idle count stands at 3 (R158). -/
def Controller.frameOver (c : Controller) : Controller :=
  { c with line := if c.collisions ≠ 0 then .backoff else waitState c.queue, idle := 3 }

end Sys2Proof.Machine
end

