-- ==== Sys2Proof/Certificates/Slice0/Obligations.lean ====
section
/-! DEFINITION. The statements for the provers. Their words (`serves`, `answered`, `rewrites`, `moves`, …) are those of
Safety.lean. -/

open Sys2Proof Sys2Proof.Machine

/-! ### The queue of commands and the resets -/

/-- A step runs the command at the front on the state with the queue's rest; on an empty queue the block idles
(log 2). -/
def Obligations.StepRunsTheFrontCommand : Prop :=
  (∀ (c : Instr) (rest : List Instr) (s : State),
      step { s with pending := c :: rest } = exec c { s with pending := rest })
    ∧ ∀ s : State, s.pending = [] → step s = .next s

/-- What a power-on reset leaves in every block (R28, R97, R98, R130, R141, R142, R155, R175, R194). The idle count and the
MISO bytes, for which the spec states no value, are the model's choice (logs 4 and 11) and are not stated here. -/
def Obligations.ResetStateOfEveryBlock : Prop :=
  (∀ a, State.reset.binding a = .free) ∧ State.reset.freeQueue = allAddrs ∧ State.reset.holdQueue = []
    ∧ State.reset.phase = .stopped ∧ State.reset.generation = 0 ∧ State.reset.marks = []
    ∧ State.reset.policy = { mode := .open_, offerLimit := 4, offerWindow := 5, defaultLease := 600, maximumLease := 3600,
                             holdPeriod := 120, admissionWindow := 60, contestWindow := 0 }
    ∧ State.reset.admission = [] ∧ State.reset.barred = []
    ∧ (∀ g, State.reset.group g = .unused) ∧ State.reset.poolFree = 128
    ∧ (∀ seg, State.reset.listing seg = none ∧ (State.reset.line seg).line = .disabled
        ∧ (State.reset.line seg).format = ⟨.b19200, .none, .one⟩ ∧ (State.reset.line seg).ready = []
        ∧ (State.reset.line seg).queue = [] ∧ (State.reset.line seg).collisions = 0
        ∧ (State.reset.line seg).flags = 0 ∧ State.reset.driverEnabled seg = false)
    ∧ State.reset.port.state = .idle ∧ State.reset.port.refused = false ∧ State.reset.port.check = false
    ∧ State.reset.port.selected = none
    ∧ (∀ f : Factor, State.reset.factor f = decide (f = .reset)) ∧ State.reset.enables = 1
    ∧ State.reset.attn = true ∧ State.reset.statusByte = 0x08

/-- Either reset, in any state, sets every block to its reset state, abandons the exchange in progress and holds the part: until
its end nothing else acts, ATTNn and MISO are released, the driver enables stand low and the transmit pins high; at its end its
cause is recorded (R28, R188, R194, R203). Which commands act during a reset is log 10. Outside a reset MISO is driven while an
exchange is in progress; a driver enable is high exactly while TRANSMITTING, and the transmit pin is high whenever it is low and
carries the characters of the head frame while that goes out: a low start bit, the data bits from the least significant on, the
parity bit of the format, its stop bits (R156, R165, R173, R203). -/
def Obligations.ResetsHoldThePart : Prop :=
  (∀ s, exec .powerOnReset s =
      .next { State.reset with lastReset := s.lastReset, inReset := some .powerOn, pending := s.pending })
    ∧ (∀ s, exec .pinReset s =
      .next { State.reset with lastReset := s.lastReset, inReset := some .pin, pending := s.pending })
    ∧ (∀ (s : State) c, s.inReset = some c → exec .resetEnd s = .next { s with lastReset := c, inReset := none })
    ∧ (∀ (s : State) c, s.inReset = some c → s.attn = false ∧ s.misoDriven = false
        ∧ ∀ seg, s.driverEnabled seg = false ∧ s.transmitPin seg = .high)
    ∧ (∀ (i : Instr) (s : State), s.inReset ≠ none → i ≠ .powerOnReset → i ≠ .pinReset → i ≠ .resetEnd →
        exec i s = .next s)
    ∧ ∀ s : State, s.inReset = none →
      (s.misoDriven = true ↔ s.port.selected ≠ none)
      ∧ ∀ seg, let c := s.line seg
        let ones := fun (b : Byte) => (List.range 8).countP (fun i => b.getLsbD i)
        let levels := fun (b : Byte) => [false] ++ (List.range 8).map (fun i => b.getLsbD i)
          ++ (match c.format.parity with
            | .none => []
            | .even => [decide (ones b % 2 = 1)]
            | .odd => [decide (ones b % 2 = 0)])
          ++ (match c.format.stop with | .one => [true] | .two => [true, true])
        (s.driverEnabled seg = true ↔ ∃ k, c.line = .transmitting k)
        ∧ (s.driverEnabled seg = false → s.transmitPin seg = .high)
        ∧ ∀ f q, c.line = .transmitting false → c.queue = f :: q →
          s.transmitPin seg = .sending (f.frame.bytes.flatMap levels)

/-! ### What every station request passes through (chapter 2) -/

/-- In STOPPED a frame taken is discarded: its slot is freed and nothing else happens (R30). Otherwise the tests before
execution: a kind that is none of the fourteen is answered BADREQ below 0x80 and discarded above (R31); a source outside its
class is answered BADREQ (R32), an unbound one UNKNOWN (R33), neither of them cached; a body the kind cannot use is answered
BADREQ, cached when the source is bound and takes part in the sequence mechanism (R34, R43). -/
def Obligations.TestsTurnRequestsAway : Prop :=
  (∀ (seg : Segment) (s : State) (f : Frame) (rest : List Frame),
      s.inReset = none → s.phase = .stopped → (s.line seg).ready = f :: rest →
        exec (requestRow f.kind seg) s = .next (s.freed seg rest))
    ∧
  (∀ (seg : Segment) (s : State) (f : Frame) (rest : List Frame), s.serves seg f rest →
      (f.kind ∉ requestKinds → f.kind.toNat < 0x80 →
        exec (.unknownKindFrame seg) s = .next (s.answered seg f rest .badreq []))
      ∧ (f.kind ∉ requestKinds → 0x80 ≤ f.kind.toNat → exec (.unknownKindFrame seg) s = .next (s.freed seg rest))
      ∧ (f.kind ∈ requestKinds → wrongSource f = true →
        exec (requestRow f.kind seg) s = .next (s.answered seg f rest .badreq (badreqRest f)))
      ∧ (∀ a, f.kind ∈ kindListAck :: sequenceKinds → addrOf? f.source = some a → (s.binding a).isBound = false →
        exec (requestRow f.kind seg) s = .next (s.answered seg f rest .unknown []))
      ∧ (∀ a, f.kind ∈ sequenceKinds → s.newFrom f a → bodyAccepted f = false →
        exec (requestRow f.kind seg) s = .next (s.answeredCached seg f rest a .badreq (badreqRest f)))
      ∧ (f.kind ∈ requestKinds → wrongSource f = false → (f.source = 0 ∨ f.kind = kindClaim) → bodyAccepted f = false →
        exec (requestRow f.kind seg) s = .next (s.answered seg f rest .badreq (badreqRest f))))

/-- A request whose sequence is the binding's last sequence is not executed: the cached kind, status and body go out again
under the header of the retry, and nothing else changes (R42). -/
def Obligations.RetriesAreAnsweredFromTheCache : Prop :=
  ∀ (seg : Segment) (s : State) (f : Frame) (rest : List Frame) (a : Addr) (r : Replay),
    s.serves seg f rest → f.kind ∈ sequenceKinds → addrOf? f.source = some a → (s.binding a).isBound = true →
    (s.binding a).replay? = some r → r.sequence = f.sequence →
      exec (requestRow f.kind seg) s =
        .next ((s.freed seg rest).handReply seg ⟨f.source, 0xFE, r.kind, 0#4 ++ f.sequence, r.status.code :: r.rest⟩)

/-- RENEW, RELEASE, RETAG, LIST, JOIN and LEAVE from a CONTESTED address are answered CONTESTED and not executed, and the
answer is cached (R46). -/
def Obligations.ContestedAddressesAreAnsweredContested : Prop :=
  ∀ (seg : Segment) (s : State) (f : Frame) (rest : List Frame) (a : Addr),
    s.serves seg f rest → f.kind ∈ contestedKinds → s.newFrom f a → (s.binding a).state = .contested →
    bodyAccepted f = true →
      exec (requestRow f.kind seg) s = .next (s.answeredCached seg f rest a .contested [])

/-! ### Lookups (section 6.1, R148) -/

/-- RESOLVE, REVERSE and FIND answer from the table and change nothing but the sequence state of a bound source
(R126 to R129). -/
def Obligations.LookupsAnswerFromTheTable : Prop :=
  ∀ (seg : Segment) (s : State) (f : Frame) (rest : List Frame), s.serves seg f rest →
    (∀ x, f.kind = kindResolve → s.mayLookUp f → resolveBody? f.body = some x →
      (∀ a h, (s.binding a).holder? = some h → h.identity = x →
        (∀ b k, (s.binding b).holder? = some k → k.identity = x → b = a) →
          exec (.resolve seg) s = .next (s.lookedUp seg f rest .ok
            (identityBytes x ++ [addrByte a, (s.binding a).state.code, h.cls])))
      ∧ ((∀ a h, (s.binding a).holder? = some h → h.identity ≠ x) →
          exec (.resolve seg) s = .next (s.lookedUp seg f rest .ok (identityBytes x ++ [0]))))
    ∧ (∀ a, f.kind = kindReverse → s.mayLookUp f → reverseBody? f.body = some a →
      ((s.binding a).isBound = false →
          exec (.reverse seg) s = .next (s.lookedUp seg f rest .ok [addrByte a, (s.binding a).state.code]))
      ∧ (∀ h, (s.binding a).isBound = true → (s.binding a).holder? = some h →
          exec (.reverse seg) s = .next (s.lookedUp seg f rest .ok
            ([addrByte a, (s.binding a).state.code] ++ identityBytes h.identity ++ [h.cls] ++ tagField h.tag))))
    ∧ (∀ a filter start, f.kind = kindFind → s.newFrom f a → searchBody? f.body = some (filter, start) →
      (∀ b e, start ≤ b → listingEntry? filter b (s.binding b) = some e →
        (∀ k, start ≤ k → k < b → listingEntry? filter k (s.binding k) = none) →
          exec (.find seg) s = .next (s.answeredCached seg f rest a .ok
            ([addrByte b, (s.binding b).state.code, e.cls] ++ identityBytes e.identity)))
      ∧ ((∀ k, start ≤ k → listingEntry? filter k (s.binding k) = none) →
          exec (.find seg) s = .next (s.answeredCached seg f rest a .ok [0])))

/-- MEMBERS answers the group, the member count and the members in join order, whatever the join policy, or NOGROUP
(R148). -/
def Obligations.MembersListsTheGroup : Prop :=
  ∀ (seg : Segment) (s : State) (f : Frame) (rest : List Frame) (g : GroupNo),
    s.serves seg f rest → f.kind = kindMembers → s.mayLookUp f → groupBody? f.body = some g →
      (s.group g = .unused → exec (.members seg) s = .next (s.lookedUp seg f rest .nogroup []))
      ∧ (∀ limit p m, s.group g = .opened limit p m →
          exec (.members seg) s =
            .next (s.lookedUp seg f rest .ok ([groupByte g, BitVec.ofNat 8 m.length] ++ m.map addrByte)))

/-! ### Leases, groups and listings from a bound address -/

/-- RENEW of a TIMED lease grants the requested lease within 10 and the maximum, or the default lease; of a PERMANENT one
nothing. The segment is written and the reply cached (R83). That the lease stands in two bytes of the OK body is log 16. -/
def Obligations.RenewGrantsALease : Prop :=
  ∀ (seg : Segment) (s : State) (f : Frame) (rest : List Frame) (a : Addr) (n : Nat) (h : Holder) (v : Bool)
    (p : Option Replay),
    s.serves seg f rest → f.kind = kindRenew → s.newFrom f a → renewBody? f.body = some n →
      (∀ g r, s.binding a = .bound h (.timed g r) v p →
        let length := if n = 0 then s.policy.defaultLease else if n < 10 then 10
          else if s.policy.maximumLease < n then s.policy.maximumLease else n
        ∃ t, exec (.renew seg) s = .next t
          ∧ rewrites s (s.answered seg f rest .ok (le16 length)) t a
              (.bound { h with segment := seg } (.timed length ⟨length, false⟩) v (f.pair .ok (le16 length))) [a])
      ∧ (s.binding a = .bound h .permanent v p →
        ∃ t, exec (.renew seg) s = .next t
          ∧ rewrites s (s.answered seg f rest .ok (le16 0)) t a
              (.bound { h with segment := seg } .permanent v (f.pair .ok (le16 0))) [])

/-- RETAG of a BOUND binding writes the tag given (a length of 0: none) and the segment of arrival, and leaves class, lease,
reserved attribute and memberships; the reply is kind 0xA2, OK alone, and is cached; it is one record change when the tag or
the segment changes and none otherwise. On a CONTESTED binding it is answered CONTESTED and not executed (R85). -/
def Obligations.RetagWritesTheTag : Prop :=
  ∀ (seg : Segment) (s : State) (f : Frame) (rest : List Frame) (a : Addr) (tag : Tag),
    s.serves seg f rest → f.kind = kindRetag → s.newFrom f a → f.body = BitVec.ofNat 8 tag.length :: tag → tag.length ≤ 8 →
      (∀ h l v p, s.binding a = .bound h l v p →
        ∃ t, exec (.retag seg) s = .next t
          ∧ t = { (s.freed seg rest).handReply seg ⟨f.source, 0xFE, 0xA2, 0#4 ++ f.sequence, [0x00]⟩ with
                  table := t.table, generation := t.generation, marks := t.marks }
          ∧ t.binding a = .bound { h with tag := tag, segment := seg } l v (some ⟨f.sequence, 0xA2, .ok, []⟩)
          ∧ othersKept s t a
          ∧ (h.tag = tag → h.segment = seg → t.generation = s.generation ∧ t.marks = s.marks)
          ∧ (h.tag ≠ tag ∨ h.segment ≠ seg →
            t.generation = nextGeneration s.generation ∧ t.marks = putMark (.addr a) s.marks))
      ∧ ((s.binding a).state = .contested →
        exec (.retag seg) s = .next (s.answeredCached seg f rest a .contested []))

/-- RELEASE of a BOUND binding leads to RESERVED, to HELD with identity on the segment of arrival, or to FREE; listings of
the address are abandoned (R88, R137). -/
def Obligations.ReleaseGivesTheBindingUp : Prop :=
  ∀ (seg : Segment) (s : State) (f : Frame) (rest : List Frame) (a : Addr) (h : Holder) (l : Lease) (v : Bool)
    (p : Option Replay),
    s.serves seg f rest → f.kind = kindRelease → s.newFrom f a → f.body = [] → s.binding a = .bound h l v p →
      ∃ t, exec (.release seg) s = .next t
        ∧ givesUp s ((s.withoutListingsOf a).answered seg f rest .ok []) t a { h with segment := seg } l v

/-- JOIN and LEAVE of a BOUND address, by the cases of R146 and R147 in their order; each writes the segment and caches its
reply. That group and member count stand in one byte each of the OK body is log 16. -/
def Obligations.JoinAndLeaveKeepTheRoster : Prop :=
  ∀ (seg : Segment) (s : State) (f : Frame) (rest : List Frame) (a : Addr) (g : GroupNo) (h : Holder) (l : Lease)
    (v : Bool) (p : Option Replay),
    s.serves seg f rest → s.newFrom f a → groupBody? f.body = some g → s.binding a = .bound h l v p →
      (f.kind = kindJoin ∨ f.kind = kindLeave →
        (s.group g = .unused →
          ∃ t, exec (requestRow f.kind seg) s = .next t ∧ rewrites s (s.answered seg f rest .nogroup []) t a
            (.bound { h with segment := seg } l v (f.pair .nogroup [])) [])
        ∧ (∀ limit m, s.group g = .opened limit .hostonly m →
          ∃ t, exec (requestRow f.kind seg) s = .next t ∧ rewrites s (s.answered seg f rest .hostonly []) t a
            (.bound { h with segment := seg } l v (f.pair .hostonly [])) []))
      ∧ (∀ limit m, f.kind = kindJoin → s.group g = .opened limit .stations m →
        (a ∈ m →
          let body := [groupByte g, BitVec.ofNat 8 m.length]
          ∃ t, exec (.join seg) s = .next t ∧ rewrites s (s.answered seg f rest .ok body) t a
            (.bound { h with segment := seg } l v (f.pair .ok body)) [])
        ∧ (a ∉ m → limit ≤ m.length →
          ∃ t, exec (.join seg) s = .next t ∧ rewrites s (s.answered seg f rest .groupfull []) t a
            (.bound { h with segment := seg } l v (f.pair .groupfull [])) [])
        ∧ (a ∉ m → m.length < limit → s.poolFree = 0 →
          ∃ t, exec (.join seg) s = .next t ∧ rewrites s (s.answered seg f rest .poolfull []) t a
            (.bound { h with segment := seg } l v (f.pair .poolfull [])) [])
        ∧ (a ∉ m → m.length < limit → s.poolFree ≠ 0 →
          let body := [groupByte g, BitVec.ofNat 8 (m.length + 1)]
          ∃ t, exec (.join seg) s = .next t
            ∧ moves s (s.answered seg f rest .ok body) t a (.bound { h with segment := seg } l v (f.pair .ok body)) []
            ∧ t.freeQueue = s.freeQueue ∧ t.holdQueue = s.holdQueue ∧ t.group g = .opened limit .stations (m ++ [a])
            ∧ (∀ k, k ≠ g → t.group k = s.group k) ∧ t.poolFree = s.poolFree - 1))
      ∧ (∀ limit m, f.kind = kindLeave → s.group g = .opened limit .stations m →
        (a ∉ m →
          ∃ t, exec (.leave seg) s = .next t ∧ rewrites s (s.answered seg f rest .notmember []) t a
            (.bound { h with segment := seg } l v (f.pair .notmember [])) [])
        ∧ (a ∈ m →
          let body := [groupByte g, BitVec.ofNat 8 (dropAddr a m).length]
          ∃ t, exec (.leave seg) s = .next t
            ∧ moves s (s.answered seg f rest .ok body) t a (.bound { h with segment := seg } l v (f.pair .ok body)) []
            ∧ t.freeQueue = s.freeQueue ∧ t.holdQueue = s.holdQueue ∧ t.group g = .opened limit .stations (dropAddr a m)
            ∧ (∀ k, k ≠ g → t.group k = s.group k) ∧ t.poolFree = s.poolFree + m.count a))

/-- LIST of a BOUND address: BUSY while the unit carries a listing; else OK with the generation number, and a listing in its
first send with frame 0 built and handed over behind the reply: the next address is one more than the frame's fourth entry
unless it is the END frame, and the frame joins the queue, or finds it full or DISABLED and is dropped, which is its send end and
starts the acknowledgement timer (R52, R131 to R133). A LISTING frame goes to the requester with kind 0xB3, the sequence of
the LIST, and a body of index, flags, generation and entries (R52, R197). -/
def Obligations.ListStartsAListing : Prop :=
  (∀ l : Listing,
      let flag := fun (n : Nat) (p : Bool) => if p then n else 0
      l.frame = ⟨addrByte l.requester, 0xFE, 0xB3, 0#4 ++ l.sequence,
        [BitVec.ofNat 8 l.built.index,
          BitVec.ofNat 8 (flag 1 l.built.endFlag + flag 2 l.built.moved + flag 4 l.built.empty)]
          ++ le16 l.built.generation.toNat
          ++ l.built.entries.flatMap (fun e => [addrByte e.address, e.state.code, e.cls] ++ identityBytes e.identity)⟩)
    ∧
  (∀ (seg : Segment) (s : State) (f : Frame) (rest : List Frame) (a : Addr) (filter : Byte) (start : Addr),
    s.serves seg f rest → f.kind = kindList → s.newFrom f a → searchBody? f.body = some (filter, start) →
    (s.binding a).state = .bound →
      (s.listing seg ≠ none → exec (.list seg) s = .next (s.answeredCached seg f rest a .busy []))
      ∧ (s.listing seg = none →
        let u := s.answeredCached seg f rest a .ok (le32 s.generation)
        let built := s.buildFrame filter (start.val + 1) 0 s.generation
        let next := match built.endFlag, built.entries[3]? with
          | false, some e => e.address.val + 2
          | _, _ => start.val + 1
        let l : Listing :=
          { requester := a, sequence := f.sequence, filter := filter, next := next, startGeneration := s.generation
            built := built, sends := 1, timer := none }
        ((u.line seg).line ≠ .disabled → (u.line seg).queue.length < 4 →
          exec (.list seg) s =
            .next ((u.setListing seg (some l)).setLine seg ((u.line seg).joinQueue ⟨.listing true, l.frame⟩)))
        ∧ ((u.line seg).line = .disabled ∨ 4 ≤ (u.line seg).queue.length →
          exec (.list seg) s = .next (u.setListing seg (some { l with timer := some 250 })))))

/-- A LISTING frame holds the first four matches from the next address on, END when no further match stands above them, and
MOVED on an END frame when the generation number has moved (R132). -/
def Obligations.ListingFramesHoldTheNextMatches : Prop :=
  ∀ (s : State) (filter : Byte) (next index : Nat) (start : BitVec 32),
    let f := s.buildFrame filter next index start
    f.index = index ∧ f.entries.length ≤ 4 ∧ f.empty = f.entries.isEmpty
      ∧ f.generation = s.generation.extractLsb' 0 16
      ∧ f.entries.Pairwise (fun d e => d.address < e.address)
      ∧ (∀ e ∈ f.entries, next ≤ e.address.val + 1 ∧ listingEntry? filter e.address (s.binding e.address) = some e)
      ∧ (∀ a e, next ≤ a.val + 1 → listingEntry? filter a (s.binding a) = some e →
          e ∈ f.entries ∨ (f.endFlag = false ∧ f.entries.length = 4 ∧ ∀ d ∈ f.entries, d.address < a))
      ∧ (f.endFlag = true ↔ ∀ a e, next ≤ a.val + 1 → listingEntry? filter a (s.binding a) = some e → e ∈ f.entries)
      ∧ f.moved = (f.endFlag && decide (s.generation ≠ start))

/-- LIST-ACK from a bound source: ignored unless it comes from the requester with one body byte, the index of the frame that
waits; then the END frame completes the listing, and any other leads to the next frame, in its first send, handed over as frame 0
was (R134, R136). Copies that wait in the queue stay there, and their send end is awaited no longer (log 13). -/
def Obligations.ListAckMovesTheListing : Prop :=
  ∀ (seg : Segment) (s : State) (f : Frame) (rest : List Frame) (a : Addr),
    s.serves seg f rest → f.kind = kindListAck → addrOf? f.source = some a → (s.binding a).isBound = true →
      (s.listing seg = none → exec (.listAck seg) s = .next (s.freed seg rest))
      ∧ ∀ l, s.listing seg = some l →
        ((∀ i, l.requester = a → f.body = [i] → i.toNat ≠ l.built.index) →
          exec (.listAck seg) s = .next (s.freed seg rest))
        ∧ ∀ i, l.requester = a → f.body = [i] → i.toNat = l.built.index →
          let copies := (s.line seg).queue.map (fun q =>
            match q.cls with | .listing _ => ⟨.listing false, q.frame⟩ | .reply | .notice => q)
          let c := { s.line seg with ready := rest, queue := copies }
          let built := s.buildFrame l.filter l.next (l.built.index + 1) l.startGeneration
          let next := match built.endFlag, built.entries[3]? with
            | false, some e => e.address.val + 2
            | _, _ => l.next
          let k := { l with built := built, next := next, sends := 1, timer := none }
          (l.built.endFlag = true → exec (.listAck seg) s = .next ((s.setLine seg c).setListing seg none))
          ∧ (l.built.endFlag = false → c.line ≠ .disabled → c.queue.length < 4 →
            exec (.listAck seg) s =
              .next ((s.setLine seg (c.joinQueue ⟨.listing true, k.frame⟩)).setListing seg (some k)))
          ∧ (l.built.endFlag = false → c.line = .disabled ∨ 4 ≤ c.queue.length →
            exec (.listAck seg) s = .next ((s.setLine seg c).setListing seg (some { k with timer := some 250 })))

/-! ### Admission: ASK and TAKE (chapter 3) -/

/-- The ASKs that change nothing: in RECALL, WAIT with the recall remaining; of a barred identity, BARRED (R56); of an
identity that stands nowhere, REFUSED under CLOSED admission (R62); of an identity an offer would be made to, WAIT 1 while
the count of OFFERED bindings stands at the offer limit (R55). A
BOUND identity is answered ALREADY with its lease, and its sequence state is dropped (R57); an identity already OFFERED an
address is answered with the same offer, whose window is not restarted (R60); both write the segment. -/
def Obligations.AsksThatMakeNoOffer : Prop :=
  (∀ (seg : Segment) (s : State) (f : Frame) (rest : List Frame) (x : Identity) (c : Byte) (tag : Tag),
      s.serves seg f rest → f.kind = kindAsk → f.source = 0 → askBody? f.body = some (x, c, tag) →
        (∀ r, s.phase = .recall r →
          exec (.ask seg) s = .next (s.answered seg f rest .wait (identityBytes x ++ [BitVec.ofNat 8 r.remaining])))
        ∧ (s.phase = .running → x ∈ s.barred → exec (.ask seg) s = .next (s.answered seg f rest .barred (identityBytes x)))
        ∧ (s.phase = .running → x ∉ s.barred → (∀ a, x ∉ (s.binding a).parties) → s.policy.mode = .closed →
          exec (.ask seg) s = .next (s.answered seg f rest .refused (identityBytes x)))
        ∧ (s.phase = .running → x ∉ s.barred → (∀ a, x ∉ (s.binding a).parties) → s.policy.mode = .open_ →
          s.policy.offerLimit ≤ s.offeredCount →
          exec (.ask seg) s = .next (s.answered seg f rest .wait (identityBytes x ++ [1])))
        ∧ (∀ a, s.phase = .running → x ∉ s.barred → s.IdentitiesStandOnce → x ∈ (s.binding a).parties →
          (s.binding a).state = .reserved ∨ (s.binding a).state = .held → s.policy.offerLimit ≤ s.offeredCount →
          exec (.ask seg) s = .next (s.answered seg f rest .wait (identityBytes x ++ [1]))))
    ∧
  (∀ (seg : Segment) (s : State) (f : Frame) (rest : List Frame) (x : Identity) (c : Byte) (tag : Tag) (a : Addr)
      (h : Holder),
      s.serves seg f rest → f.kind = kindAsk → f.source = 0 → askBody? f.body = some (x, c, tag) →
      s.phase = .running → x ∉ s.barred → s.IdentitiesStandOnce → h.identity = x →
        (∀ l v p, s.binding a = .bound h l v p →
          ∃ t, exec (.ask seg) s = .next t
            ∧ rewrites s (s.answered seg f rest .already (identityBytes x ++ [addrByte a] ++ le16 l.remainingField)) t a
                (.bound { h with segment := seg } l v none) [])
        ∧ (∀ o r, s.binding a = .offered h o r →
          let lease := match o with | .reserved .permanent => 0 | .reserved .timed | .free | .held => s.policy.defaultLease
          ∃ t, exec (.ask seg) s = .next t
            ∧ rewrites s (s.answered seg f rest .ok
                  (identityBytes x ++ [addrByte a] ++ le16 lease ++ [BitVec.ofNat 8 r.remaining])) t a
                (.offered { h with segment := seg } o r) []))

/-- A RESERVED or HELD binding of the identity is offered to it whatever the admission mode, with the class and tag of the
ASK; a HELD one keeps its memberships (R61, R64). -/
def Obligations.AskOffersTheOwnAddress : Prop :=
  ∀ (seg : Segment) (s : State) (f : Frame) (rest : List Frame) (x : Identity) (c : Byte) (tag : Tag) (a : Addr),
    s.serves seg f rest → f.kind = kindAsk → f.source = 0 → askBody? f.body = some (x, c, tag) →
    s.phase = .running → x ∉ s.barred → s.IdentitiesStandOnce → s.offeredCount < s.policy.offerLimit →
      (∀ r, s.binding a = .reserved r → r.identity = x →
        let lease := if r.kind = .permanent then 0 else s.policy.defaultLease
        ∃ t, exec (.ask seg) s = .next t
          ∧ offers s (s.answered seg f rest .ok
              (identityBytes x ++ [addrByte a] ++ le16 lease ++ [BitVec.ofNat 8 s.policy.offerWindow])) t a
              ⟨x, c, tag, seg⟩ (.reserved r.kind)
          ∧ membershipsKept s t)
      ∧ (∀ h k, s.binding a = .held (some h) k → h.identity = x →
        ∃ t, exec (.ask seg) s = .next t
          ∧ offers s (s.answered seg f rest .ok
              (identityBytes x ++ [addrByte a] ++ le16 s.policy.defaultLease ++ [BitVec.ofNat 8 s.policy.offerWindow])) t a
              ⟨x, c, tag, seg⟩ .held
          ∧ membershipsKept s t)

/-- Under OPEN admission a newcomer is offered the head of the free queue; with that queue empty the head of the hold queue
is reclaimed, losing its memberships, and offered with origin FREE; with both empty the answer is FULL and EXHAUSTED is set
(R24, R63). -/
def Obligations.AskOffersToNewcomers : Prop :=
  ∀ (seg : Segment) (s : State) (f : Frame) (rest : List Frame) (x : Identity) (c : Byte) (tag : Tag),
    s.serves seg f rest → f.kind = kindAsk → f.source = 0 → askBody? f.body = some (x, c, tag) →
    s.phase = .running → x ∉ s.barred → (∀ a, x ∉ (s.binding a).parties) → s.policy.mode = .open_ →
    s.offeredCount < s.policy.offerLimit →
      let offer := fun (a : Addr) => identityBytes x ++ [addrByte a] ++ le16 s.policy.defaultLease
        ++ [BitVec.ofNat 8 s.policy.offerWindow]
      (∀ a q, s.freeQueue = a :: q → s.binding a = .free →
        ∃ t, exec (.ask seg) s = .next t
          ∧ offers s (s.answered seg f rest .ok (offer a)) t a ⟨x, c, tag, seg⟩ .free ∧ membershipsKept s t)
      ∧ (∀ a q h k, s.freeQueue = [] → s.holdQueue = a :: q → s.binding a = .held (some h) k →
        ∃ t, exec (.ask seg) s = .next t
          ∧ offers s (s.answered seg f rest .ok (offer a)) t a ⟨x, c, tag, seg⟩ .free ∧ membershipsDropped s t a)
      ∧ (∀ a q k, s.freeQueue = [] → s.holdQueue = a :: q → s.binding a = .held none k →
        ∃ t, exec (.ask seg) s = .next t
          ∧ offers s (s.answered seg f rest .ok (offer a)) t a ⟨x, c, tag, seg⟩ .free ∧ membershipsKept s t)
      ∧ (s.freeQueue = [] → s.holdQueue = [] →
        exec (.ask seg) s = .next ((s.setFactor .exhausted).answered seg f rest .full (identityBytes x)))

/-- Under SUPERVISED admission a newcomer without an entry joins the admission queue at the tail with a full wait, and
ADMIT-PENDING is set; with 8 entries there it does not; one with an entry has its segment written, and nothing restarted
(R62, R69). -/
def Obligations.AskQueuesUnderSupervision : Prop :=
  ∀ (seg : Segment) (s : State) (f : Frame) (rest : List Frame) (x : Identity) (c : Byte) (tag : Tag),
    s.serves seg f rest → f.kind = kindAsk → f.source = 0 → askBody? f.body = some (x, c, tag) →
    s.phase = .running → x ∉ s.barred → (∀ a, x ∉ (s.binding a).parties) → s.policy.mode = .supervised →
      ((∀ e ∈ s.admission, e.identity ≠ x) → s.admission.length < 8 →
        exec (.ask seg) s = .next
          (({ s with admission := s.admission ++
                [⟨x, c, tag, seg, ⟨s.policy.admissionWindow, false⟩⟩] } : State).setFactor .admitPending
            |>.answered seg f rest .wait (identityBytes x ++ [2])))
      ∧ ((∀ e ∈ s.admission, e.identity ≠ x) → 8 ≤ s.admission.length →
        exec (.ask seg) s = .next (s.answered seg f rest .wait (identityBytes x ++ [2])))
      ∧ ((∃ e ∈ s.admission, e.identity = x) →
        let entries := s.admission.map (fun e => if e.identity = x then { e with segment := seg } else e)
        exec (.ask seg) s = .next
          (({ s with admission := entries } : State).answered seg f rest .wait (identityBytes x ++ [2])))

/-- The ASK of a challenger gives the contested binding back to its incumbent, lease, sequence state and memberships as they
were (R58); the ASK of an incumbent gives it to the challenger with a fresh lease, and the address leaves its groups (R59).
Either ASK then goes on as the ASK of an identity that stands nowhere. Settlement and continuation are one application, in which
a group that both touch counts once: log 6. -/
def Obligations.AskSettlesAContest : Prop :=
  ∀ (seg : Segment) (s : State) (f : Frame) (rest : List Frame) (x : Identity) (c : Byte) (tag : Tag) (a : Addr)
    (h : Holder) (l : Lease) (v : Bool) (p : Option Replay) (ch : Challenger) (k : Option Countdown),
    s.serves seg f rest → f.kind = kindAsk → f.source = 0 → askBody? f.body = some (x, c, tag) →
    s.phase = .running → x ∉ s.barred → s.IdentitiesStandOnce → s.QueuesAgree →
    s.binding a = .contested h l v p ch k →
      (ch.identity = x →
        ∃ t, exec (.ask seg) s = .next t
          ∧ t = (s.freed seg rest).deliver seg f
              (continueAsk ⟨x, c, tag, seg⟩ ((s.freed seg rest).setBinding a (.bound h l v p)))
          ∧ t.binding a = .bound h l v p)
      ∧ (h.identity = x →
        let lease := if v = true ∧ l.kind = .permanent then Lease.permanent
          else .timed s.policy.defaultLease ⟨s.policy.defaultLease, false⟩
        ∃ t, exec (.ask seg) s = .next t
          ∧ t = (s.freed seg rest).deliver seg f
              (continueAsk ⟨x, c, tag, seg⟩ ((s.freed seg rest).keepChallenger ch l v a))
          ∧ t.binding a = .bound ⟨ch.identity, ch.cls, [], ch.segment⟩ lease v none
          ∧ ∀ g, a ∉ (t.group g).members)

/-- TAKE in RUNNING binds the address offered to the identity with the lease of its origin, repeats the answer for an address
BOUND to it, and is answered STALE otherwise, as in RECALL whatever stands (R67). That the OK body is identity, address and a
lease of two bytes is log 16. -/
def Obligations.TakeBindsTheOffer : Prop :=
  ∀ (seg : Segment) (s : State) (f : Frame) (rest : List Frame) (x : Identity) (a : Addr),
    s.serves seg f rest → f.kind = kindTake → f.source = 0 → takeBody? f.body = some (x, a) →
      (s.phase.isRecall = true → exec (.take seg) s = .next (s.answered seg f rest .stale (identityBytes x)))
      ∧ (s.phase = .running → (∀ h o r, s.binding a = .offered h o r → h.identity ≠ x) →
        (∀ h l v p, s.binding a = .bound h l v p → h.identity ≠ x) →
        exec (.take seg) s = .next (s.answered seg f rest .stale (identityBytes x)))
      ∧ (∀ h l v p, s.phase = .running → s.binding a = .bound h l v p → h.identity = x →
        ∃ t, exec (.take seg) s = .next t
          ∧ rewrites s (s.answered seg f rest .ok (identityBytes x ++ [addrByte a] ++ le16 l.remainingField)) t a
              (.bound { h with segment := seg } l v p) [])
      ∧ (∀ h o r, s.phase = .running → s.binding a = .offered h o r → h.identity = x →
        let lease := match o with
          | .reserved .permanent => Lease.permanent
          | .reserved .timed | .free | .held => .timed s.policy.defaultLease ⟨s.policy.defaultLease, false⟩
        ∃ t, exec (.take seg) s = .next t
          ∧ moves s (s.answered seg f rest .ok (identityBytes x ++ [addrByte a] ++ le16 lease.grantedField)) t a
              (.bound { h with segment := seg } lease o.reservedYes none) [a]
          ∧ leavesQueues s t a ∧ membershipsKept s t)

/-! ### CLAIM (section 5.2) -/

/-- A CLAIM by an identity that stands nowhere else binds a FREE address in RECALL or under OPEN admission, and an address
RESERVED for, OFFERED to or HELD for the identity; memberships are kept and the claimant's admission entry is removed
(R109 to R111, R114, R116). A HELD binding of the claimant's elsewhere is made anonymous in the same application, keeping its
count and its place in the hold queue and leaving its groups (R108, R9). -/
def Obligations.ClaimBindsTheAddress : Prop :=
  ∀ (seg : Segment) (s : State) (f : Frame) (rest : List Frame) (x : Identity) (c : Byte) (a : Addr),
    s.serves seg f rest → f.kind = kindClaim → addrOf? f.source = some a → claimBody? f.body = some (x, c) →
    x ∉ s.barred →
      let timed := Lease.timed s.policy.defaultLease ⟨s.policy.defaultLease, false⟩
      let binds := fun (status : Status) (tag : Tag) (lease : Lease) (reserved : Bool) =>
        ∃ t, exec (.claim seg) s = .next t
          ∧ moves s { s.answered seg f rest status (identityBytes x ++ le16 lease.grantedField) with
                admission := s.admission.filter (fun e => decide (e.identity ≠ x)) } t a
              (.bound ⟨x, c, tag, seg⟩ lease reserved none) [a]
          ∧ leavesQueues s t a ∧ membershipsKept s t
      ((∀ b, b ≠ a → x ∉ (s.binding b).parties) →
        (s.binding a = .free → (s.phase.isRecall = true ∨ s.policy.mode = .open_) → binds .ok [] timed false)
        ∧ (∀ r, s.binding a = .reserved r → r.identity = x →
          binds .ok r.tag (if r.kind = .permanent then .permanent else timed) true)
        ∧ (∀ h o r, s.binding a = .offered h o r → h.identity = x →
          binds .ok h.tag (match o with | .reserved .permanent => .permanent | .reserved .timed | .free | .held => timed)
            o.reservedYes)
        ∧ (∀ h r, s.binding a = .held (some h) r → h.identity = x → binds .restored h.tag timed false))
      ∧ (∀ b h r, s.IdentitiesStandOnce → b ≠ a → s.binding b = .held (some h) r → h.identity = x → s.binding a = .free →
        (s.phase.isRecall = true ∨ s.policy.mode = .open_) →
        ∃ t, exec (.claim seg) s = .next t
          ∧ t = { s.answered seg f rest .ok (identityBytes x ++ le16 s.policy.defaultLease) with
                  admission := s.admission.filter (fun e => decide (e.identity ≠ x)),
                  table := t.table, freeQueue := t.freeQueue, holdQueue := t.holdQueue, boundary := t.boundary,
                  groups := t.groups, poolFree := t.poolFree, generation := t.generation, marks := t.marks }
          ∧ t.binding a = .bound ⟨x, c, [], seg⟩ timed false none
          ∧ t.binding b = .held none r ∧ (∀ k, k ≠ a → k ≠ b → t.binding k = s.binding k)
          ∧ leavesQueues s t a ∧ membershipsDropped s t b ∧ counted s t [a])

/-- A CLAIM of an address BOUND to the claimant refreshes it: segment and class are written, the sequence state dropped, a
TIMED lease granted anew and a PERMANENT one left (R112). A CLAIM of an address BOUND to another begins a contest: the
incumbent's fields, sequence state and frozen lease stay, and CONTEST is set (R113, R14); a HELD binding of the claimant's
elsewhere is made anonymous in the same application, keeping its place in the hold queue (R108, R9). -/
def Obligations.ClaimRefreshesOrContests : Prop :=
  ∀ (seg : Segment) (s : State) (f : Frame) (rest : List Frame) (x : Identity) (c : Byte) (a : Addr) (h : Holder)
    (l : Lease) (v : Bool) (p : Option Replay),
    s.serves seg f rest → f.kind = kindClaim → addrOf? f.source = some a → claimBody? f.body = some (x, c) →
    x ∉ s.barred → s.binding a = .bound h l v p →
      let entries := s.admission.filter (fun e => decide (e.identity ≠ x))
      let contest : Binding := .contested h l.frozen v p ⟨x, c, seg⟩
        (if s.policy.contestWindow = 0 then none else some ⟨s.policy.contestWindow, false⟩)
      let told := (({ s with admission := entries } : State).setFactor .contest).answered seg f rest .contested
        (identityBytes x)
      ((∀ b, b ≠ a → x ∉ (s.binding b).parties) →
        (h.identity = x → l.kind = .timed →
          ∃ t, exec (.claim seg) s = .next t
            ∧ rewrites s { s.answered seg f rest .ok (identityBytes x ++ le16 s.policy.defaultLease) with
                admission := entries } t a
                (.bound ⟨x, c, h.tag, seg⟩ (.timed s.policy.defaultLease ⟨s.policy.defaultLease, false⟩) v none) [a])
        ∧ (h.identity = x → l = .permanent →
          ∃ t, exec (.claim seg) s = .next t
            ∧ rewrites s { s.answered seg f rest .ok (identityBytes x ++ le16 0) with admission := entries } t a
                (.bound ⟨x, c, h.tag, seg⟩ .permanent v none) [])
        ∧ (h.identity ≠ x → ∃ t, exec (.claim seg) s = .next t ∧ rewrites s told t a contest []))
      ∧ ∀ b k r, h.identity ≠ x → s.IdentitiesStandOnce → b ≠ a → s.binding b = .held (some k) r → k.identity = x →
        ∃ t, exec (.claim seg) s = .next t
          ∧ t = { told with
                  table := t.table, groups := t.groups, poolFree := t.poolFree, generation := t.generation,
                  marks := t.marks }
          ∧ t.binding a = contest ∧ t.binding b = .held none r ∧ (∀ d, d ≠ a → d ≠ b → t.binding d = s.binding d)
          ∧ membershipsDropped s t b ∧ counted s t []

/-- The CLAIMs that change nothing: of a barred identity, BARRED; of an identity that stands elsewhere in a binding that is
not HELD, MOVED with that address (R107); of a FREE address in RUNNING under SUPERVISED or CLOSED admission, REFUSED (R109);
of an address held by or for another identity, TAKEN (R110, R111, R114, R115); by a party to the contest that stands,
CONTESTED (R115). -/
def Obligations.ClaimTurnsAway : Prop :=
  ∀ (seg : Segment) (s : State) (f : Frame) (rest : List Frame) (x : Identity) (c : Byte) (a : Addr),
    s.serves seg f rest → f.kind = kindClaim → addrOf? f.source = some a → claimBody? f.body = some (x, c) →
      (x ∈ s.barred → exec (.claim seg) s = .next (s.answered seg f rest .barred (identityBytes x)))
      ∧ (∀ b, x ∉ s.barred → s.IdentitiesStandOnce → b ≠ a → x ∈ (s.binding b).parties → (s.binding b).state ≠ .held →
        exec (.claim seg) s = .next (s.answered seg f rest .moved (identityBytes x ++ [addrByte b])))
      ∧ (x ∉ s.barred → (∀ b, b ≠ a → x ∈ (s.binding b).parties → (s.binding b).state = .held) →
        (s.binding a = .free → s.phase = .running → s.policy.mode ≠ .open_ →
          exec (.claim seg) s = .next (s.answered seg f rest .refused (identityBytes x)))
        ∧ (s.binding a ≠ .free → (s.binding a).state ≠ .bound → x ∉ (s.binding a).parties →
          exec (.claim seg) s = .next (s.answered seg f rest .taken (identityBytes x)))
        ∧ ((s.binding a).state = .contested → x ∈ (s.binding a).parties →
          exec (.claim seg) s = .next (s.answered seg f rest .contested (identityBytes x))))

/-! ### Timers (chapters 4 to 6) -/

/-- At a seconds boundary in RECALL or RUNNING every running count and admission wait decreases by one, or in its last second
stands and falls due; in STOPPED none does (R79 to R81). An expiry of an earlier boundary that no row has applied is applied
first, bindings in ascending order of address, then admission waits, then the recall window: the boundary is then that of the
state in which the rows of every expiry have run and no count is due. The split of a boundary over its rows, and what becomes
of an expiry no row has applied, are the model's (log 3). -/
def Obligations.SecondsBoundaryCountsDown : Prop :=
  ∀ s : State, s.inReset = none →
    (s.phase = .stopped →
      exec .secondsBoundary s = .next { s with boundary := { Boundary.none with holds := s.holdQueue } })
    ∧ (s.phase.isStopped = false → (∀ a, (s.binding a).due = false) → (∀ e ∈ s.admission, e.wait.due = false) →
      (∀ r, s.phase = .recall r → r.due = false) →
      let less := fun (r : Countdown) =>
        if r.remaining ≤ 1 then (⟨r.remaining, true⟩ : Countdown) else ⟨r.remaining - 1, false⟩
      ∃ t, exec .secondsBoundary s = .next t
        ∧ t = { s with table := t.table, phase := t.phase, admission := t.admission,
                       boundary := { Boundary.none with holds := s.holdQueue } }
        ∧ t.admission = s.admission.map (fun e => { e with wait := less e.wait })
        ∧ (s.phase = .running → t.phase = .running) ∧ (∀ r, s.phase = .recall r → t.phase = .recall (less r))
        ∧ ∀ a,
          (∀ h o r, s.binding a = .offered h o r → t.binding a = .offered h o (less r))
          ∧ (∀ h g r v p, s.binding a = .bound h (.timed g r) v p → t.binding a = .bound h (.timed g (less r)) v p)
          ∧ (∀ h v p, s.binding a = .bound h .permanent v p → t.binding a = .bound h .permanent v p)
          ∧ (∀ o r, s.binding a = .held o r → t.binding a = .held o (less r))
          ∧ (∀ h l v p c r, s.binding a = .contested h l v p c (some r) →
              t.binding a = .contested h l v p c (some (less r)))
          ∧ (∀ h l v p c, s.binding a = .contested h l v p c none → t.binding a = .contested h l v p c none)
          ∧ (∀ r, s.binding a = .reserved r → t.binding a = .reserved r) ∧ (s.binding a = .free → t.binding a = .free))
    ∧ (s.phase.isStopped = false →
      let ofBinding := fun (a : Addr) =>
        [Instr.offerLapse (addrByte a), .leaseExpiry (addrByte a), .holdExpiry (addrByte a), .contestExpiry (addrByte a)]
      let late := allAddrs.flatMap ofBinding ++ s.admission.map (fun e => .admissionWaitExpiry e.identity)
        ++ [.recallWindowExpiry]
      ∃ u, runs late s u ∧ exec .secondsBoundary s = exec .secondsBoundary u
        ∧ u.inReset = none ∧ u.phase.isStopped = false ∧ (∀ a, (u.binding a).due = false)
        ∧ (∀ e ∈ u.admission, e.wait.due = false) ∧ ∀ r, u.phase = .recall r → r.due = false)

/-- The expiries of offers, leases and holds at the first of them at a boundary: a lapsed offer returns to its origin
(R65, R11), an expired lease leads where RELEASE leads (R86), an expired hold to the tail of the free queue (R89). That a row
whose count is not due expires nothing is log 1, and that a count stands due until its own row is log 3. -/
def Obligations.ExpiriesEndOffersLeasesAndHolds : Prop :=
  ∀ (s : State) (b : Byte) (a : Addr), s.inReset = none → s.phase.isStopped = false → addrOf? b = some a →
    ((s.binding a).due = false → exec (.offerLapse b) s = .next s ∧ exec (.leaseExpiry b) s = .next s
      ∧ exec (.holdExpiry b) s = .next s ∧ exec (.contestExpiry b) s = .next s)
    ∧ (s.boundary.lapsed = [] → s.boundary.expired = [] → s.boundary.others = [] → s.boundary.entered = [] →
      (∀ h o r, s.binding a = .offered h o r → r.due = true →
        ∃ t, exec (.offerLapse b) s = .next t
          ∧ (match o with
            | .free => goesFreeHead s s t a
            | .held => goesHeldWith s s t a h
            | .reserved k => goesReserved s s t a (h.reservation k)))
      ∧ (∀ h g r v p, s.binding a = .bound h (.timed g r) v p → r.due = true →
        ∃ t, exec (.leaseExpiry b) s = .next t ∧ givesUp s (s.withoutListingsOf a) t a h (.timed g r) v)
      ∧ (∀ o r, s.binding a = .held o r → r.due = true →
        ∃ t, exec (.holdExpiry b) s = .next t ∧ goesFreeTail s s t a))

/-- Two expiries of one boundary take the places R20 and R22 give, whichever is applied first. Lapsed offers of origin FREE
stand at the head of the free queue in ascending order. Leases, and offers of origin HELD, join the hold queue in ascending
order, or with a hold period of 0 the free queue in ascending order. Holds join the free queue in their hold-queue order, and
ahead of the other tail joins; head joins and tail joins do not affect each other. That they are separate rows is log 3. -/
def Obligations.ExpiriesOfOneBoundaryTakeTheirPlaces : Prop :=
  ∀ (s : State) (b d : Byte) (a c : Addr), s.inReset = none → s.phase.isStopped = false → s.QueuesAgree →
    addrOf? b = some a → addrOf? d = some c → a ≠ c → s.boundary = { Boundary.none with holds := s.holdQueue } →
      let bothWays := fun (i j : Instr) (holds : State → Prop) =>
        (∃ u, runs [i, j] s u ∧ holds u) ∧ ∃ u, runs [j, i] s u ∧ holds u
      (a < c → s.lapses a .free → s.lapses c .free →
        bothWays (.offerLapse b) (.offerLapse d) (fun u => u.freeQueue = a :: c :: s.freeQueue))
      ∧ (∀ i j, a < c → s.endsTenure b a i → s.endsTenure d c j →
        (s.policy.holdPeriod ≠ 0 → bothWays i j (fun u => u.holdQueue = s.holdQueue ++ [a, c]))
        ∧ (s.policy.holdPeriod = 0 → bothWays i j (fun u => u.freeQueue = s.freeQueue ++ [a, c])))
      ∧ (s.holdEnds a → s.holdEnds c → ∀ w y z, s.holdQueue = w ++ [a] ++ y ++ [c] ++ z →
        bothWays (.holdExpiry b) (.holdExpiry d) (fun u => u.freeQueue = s.freeQueue ++ [a, c]))
      ∧ (∀ j, s.holdEnds a → s.endsTenure d c j → s.policy.holdPeriod = 0 →
        bothWays (.holdExpiry b) j (fun u => u.freeQueue = s.freeQueue ++ [a, c]))
      ∧ (s.lapses a .free →
        (s.holdEnds c →
          bothWays (.offerLapse b) (.holdExpiry d) (fun u => u.freeQueue = a :: (s.freeQueue ++ [c])))
        ∧ (∀ j, s.endsTenure d c j → s.policy.holdPeriod = 0 →
          bothWays (.offerLapse b) j (fun u => u.freeQueue = a :: (s.freeQueue ++ [c]))))

/-- A contest that expires is settled for the incumbent with a fresh lease, and VACATE goes to the challenger on the
challenger segment (R123, R120). A wait that runs out removes its entry, silently (R70). A recall window that runs out takes
the phase to RUNNING and sets RECALL-DONE (R101). That a row whose count is not due does nothing is log 1, and that a count
stands due until its own row is log 3. -/
def Obligations.ContestsWaitsAndRecallExpire : Prop :=
  ∀ s : State, s.inReset = none → s.phase.isStopped = false →
    (∀ b a h l v p c r, addrOf? b = some a → s.binding a = .contested h l v p c (some r) → r.due = true →
      let lease := if v = true ∧ l.kind = .permanent then Lease.permanent
        else .timed s.policy.defaultLease ⟨s.policy.defaultLease, false⟩
      ∃ t, exec (.contestExpiry b) s = .next t
        ∧ moves s (s.sendVacate a c.identity c.segment .contestLost) t a (.bound h lease v none) [a]
        ∧ leavesQueues s t a ∧ membershipsKept s t)
    ∧ (∀ x, exec (.admissionWaitExpiry x) s =
        .next { s with admission := s.admission.filter (fun e => !(decide (e.identity = x) && e.wait.due)) })
    ∧ (∀ r, s.phase = .recall r → r.due = true →
        exec .recallWindowExpiry s = .next (({ s with phase := .running } : State).setFactor .recallDone))
    ∧ ((∀ r, s.phase = .recall r → r.due = false) → exec .recallWindowExpiry s = .next s)

/-- The acknowledgement timer runs out: after sends 1 to 3 the same frame is sent again, joining the queue or being dropped,
which is its send end; after the fourth the listing is abandoned and LISTING-ABANDONED is set (R52, R133, R135). -/
def Obligations.AckTimerResendsOrAbandons : Prop :=
  ∀ (s : State) (seg : Segment) (l : Listing) (n : Nat), s.inReset = none → s.listing seg = some l → l.timer = some n →
    (l.sends < 4 → (s.line seg).line ≠ .disabled → (s.line seg).queue.length < 4 →
      exec (.ackTimerExpiry seg) s = .next
        ((s.setListing seg (some { l with sends := l.sends + 1, timer := none })).setLine seg
          ((s.line seg).joinQueue ⟨.listing true, l.frame⟩)))
    ∧ (l.sends < 4 → ((s.line seg).line = .disabled ∨ 4 ≤ (s.line seg).queue.length) →
      exec (.ackTimerExpiry seg) s = .next (s.setListing seg (some { l with sends := l.sends + 1, timer := some 250 })))
    ∧ (4 ≤ l.sends →
      ∃ t, exec (.ackTimerExpiry seg) s = .next t ∧ t = (s.endListing seg).setFactor .listingAbandoned
        ∧ t.listing seg = none)

/-! ### Segment lines (chapter 8) -/

/-- The first character of a frame settles how it is followed: unreadable in error, station traffic when it is not 0xFE, a
stored directory frame when a receive slot is not ready, an overrun frame when both are; a further character is counted, of
a stored frame kept up to the 47th with its errors recorded. No character is taken in DISABLED, and those read back in
TRANSMITTING belong to no frame (R157 to R160). That a character is one event is log 9; the idle count is log 4. -/
def Obligations.CharactersBeginAndExtendFrames : Prop :=
  ∀ (seg : Segment) (ch : LineChar) (s : State), s.inReset = none →
    let c := s.line seg
    let becomes := fun (r : Reception) =>
      exec (.characterReceived seg ch) s = .next (s.setLine seg { c with line := .receiving r, idle := 0 })
    (c.line = .disabled ∨ (∃ k, c.line = .transmitting k) → exec (.characterReceived seg ch) s = .next s)
    ∧ (c.line = .idle ∨ c.line = .waitGap ∨ c.line = .backoff →
      (inError c.format ch = true → becomes ⟨.unreadable, [], 1, !ch.stop, parityError c.format ch⟩)
      ∧ (inError c.format ch = false → ch.data ≠ 0xFE → becomes ⟨.traffic, [], 1, false, false⟩)
      ∧ (inError c.format ch = false → ch.data = 0xFE → c.ready.length < 2 → becomes ⟨.stored, [0xFE], 1, false, false⟩)
      ∧ (inError c.format ch = false → ch.data = 0xFE → 2 ≤ c.ready.length → becomes ⟨.overrun, [], 1, false, false⟩))
    ∧ ∀ r, c.line = .receiving r →
      (r.following ≠ .stored → becomes { r with count := r.count + 1 })
      ∧ (r.following = .stored →
        let errors := { r with
          count := r.count + 1, framing := r.framing || !ch.stop, parity := r.parity || parityError c.format ch }
        (r.stored.length < 47 → becomes { errors with stored := r.stored ++ [ch.data] })
        ∧ (47 ≤ r.stored.length → becomes errors))

/-- A frame is decided at its frame end: station traffic sets nothing; an unreadable first character sets its character
flags, an overrun OVERRUN; of a stored frame the first check that fails sets its flags, and one that passes all becomes ready
behind those that are. Every flag's cause sets the segment's error factor (R158 to R163). That a frame end outside RECEIVING
does not happen, and leaves the state as it is, is log 1. -/
def Obligations.FrameEndsDecideFrames : Prop :=
  ∀ (seg : Segment) (s : State), s.inReset = none →
    let c := s.line seg
    let flags := fun (causes : List SegmentFlag) =>
      exec (.frameEnd seg) s =
        .next ((s.setLine seg { c.frameOver with flags := raiseFlags causes c.flags }).setFactor (segmentErrorFactor seg))
    ((∀ r, c.line ≠ .receiving r) → exec (.frameEnd seg) s = .next s)
    ∧ ∀ r, c.line = .receiving r →
      (r.following = .traffic → exec (.frameEnd seg) s = .next (s.setLine seg c.frameOver))
      ∧ (r.following = .unreadable → flags (characterFlags r))
      ∧ (r.following = .overrun → flags [.overrun])
      ∧ (r.following = .stored →
        (r.framing = true ∨ r.parity = true → flags (characterFlags r))
        ∧ (r.framing = false → r.parity = false →
          (r.count < 5 ∨ 47 < r.count → flags [.length])
          ∧ (∀ n, r.stored[4]? = some n → 40 < n.toNat ∨ r.count ≠ 7 + n.toNat → flags [.length])
          ∧ (∀ (f : Frame) (check : List Byte), r.stored = f.header ++ f.body ++ check → check.length = 2 →
            f.body.length ≤ 40 → r.count = 7 + f.body.length →
            (check ≠ crc16Bytes (f.header ++ f.body) → flags [.crc])
            ∧ (check = crc16Bytes (f.header ++ f.body) → 0x60 < f.source.toNat → flags [.address])
            ∧ (check = crc16Bytes (f.header ++ f.body) → f.source.toNat ≤ 0x60 →
              exec (.frameEnd seg) s = .next (s.setLine seg { c.frameOver with ready := c.ready ++ [f] })))))

/-- Sending and receiving agree: the bytes of any directory frame with a valid source and a body of at most 40, received
without error on a segment that waits for a start bit with a receive slot not ready, end as exactly that frame, ready behind
those that wait; nothing else of the part changes (R157 to R162, R195, R196). -/
def Obligations.ReceptionRecoversTheFrame : Prop :=
  ∀ (seg : Segment) (s : State) (f : Frame) (chars : List LineChar),
    s.inReset = none → (s.line seg).line = .idle ∨ (s.line seg).line = .waitGap ∨ (s.line seg).line = .backoff →
    (s.line seg).ready.length < 2 → f.destination = 0xFE → f.source.toNat ≤ 0x60 → f.body.length ≤ 40 →
    chars.map (·.data) = f.bytes → (∀ ch ∈ chars, inError (s.line seg).format ch = false) →
      ∃ t, runs (chars.map (Instr.characterReceived seg) ++ [.frameEnd seg]) s t
        ∧ t = s.setLine seg { (s.line seg).frameOver with ready := (s.line seg).ready ++ [f] }

/-- In WAIT-GAP, and in IDLE with a frame queued, the head frame starts to go out when the line has been idle for 4 character
times, in BACKOFF when the back-off has run out (R165, R167); the character in progress of a frame that was removed ends the
sending (R164). In any other segment state the event does not happen (log 1); what the idle count then holds is log 4. A
frame read back whole leaves the queue; a character read back in error or different is a collision: the first three lead to
BACKOFF, the fourth drops the frame and sets CONTENTION. Sent or dropped, a LISTING frame whose send end is awaited starts the
acknowledgement timer (R133, R166, R167).
A frame joins the tail of a queue below 4 frames: in IDLE the controller goes to WAIT-GAP, or sends at once when the line has
been idle for 4 character times. A reply handed to a full queue removes the oldest notice, with NOTICE-DROPPED, and joins;
without a notice there it is dropped. The head removed, the next frame is the head without collisions: TRANSMITTING the
character in progress completes, WAIT-GAP and BACKOFF become WAIT-GAP, RECEIVING goes on. A notice is dropped by a full queue,
with NOTICE-DROPPED. On a DISABLED segment a reply is dropped, and a notice with NOTICE-DROPPED (R50 to R52, R164, R165). VACATE
carries the identity and the reason to the address; a notice for all is handed to each enabled segment (R47 to R49). (IDLE has an
empty queue, so no head is removed there.) -/
def Obligations.TransmissionsAndCollisions : Prop :=
  (∀ (seg : Segment) (s : State), s.inReset = none →
      let c := s.line seg
      let sends := { c with line := .transmitting false, idle := 0 }
      (c.line = .waitGap → exec (.transmissionStart seg) s = .next (s.setLine seg sends))
      ∧ (c.line = .idle → c.queue ≠ [] → exec (.transmissionStart seg) s = .next (s.setLine seg sends))
      ∧ (c.line = .idle → c.queue = [] →
        exec (.transmissionStart seg) s = .next (s.setLine seg { c with idle := max c.idle 4 }))
      ∧ (c.line ≠ .waitGap → c.line ≠ .idle → exec (.transmissionStart seg) s = .next s)
      ∧ (c.line = .backoff → exec (.backoffExpiry seg) s = .next (s.setLine seg sends))
      ∧ (c.line ≠ .backoff → exec (.backoffExpiry seg) s = .next s)
      ∧ (c.line = .transmitting true →
        exec (.headFrameCutOff seg) s = .next (s.setLine seg { c with line := waitState c.queue, idle := 0 }))
      ∧ (c.line ≠ .transmitting true → exec (.headFrameCutOff seg) s = .next s))
    ∧
  (∀ (seg : Segment) (s : State) (f : QueuedFrame) (q : List QueuedFrame), s.inReset = none →
      (s.line seg).line = .transmitting false → (s.line seg).queue = f :: q →
        let c := s.line seg
        let gone := s.setLine seg { c with queue := q, line := waitState q, collisions := 0, idle := 0 }
        let ended := fun (t : State) =>
          (f.cls ≠ .listing true → t = gone)
          ∧ (s.listing seg = none → t = gone)
          ∧ (∀ l, f.cls = .listing true → s.listing seg = some l →
              t = gone.setListing seg (some { l with timer := some 250 }))
        (∃ t, exec (.frameSent seg) s = .next t ∧ ended t)
        ∧ ∀ (p : Nat) (ch : LineChar) (sent : Byte), f.frame.bytes[p]? = some sent →
          (inError c.format ch = false → ch.data = sent → exec (.collision seg p ch) s = .next s)
          ∧ (inError c.format ch = true ∨ ch.data ≠ sent → c.collisions < 3 →
            exec (.collision seg p ch) s = .next
              (s.setLine seg { c with collisions := c.collisions + 1, line := .backoff, idle := 0 }))
          ∧ (inError c.format ch = true ∨ ch.data ≠ sent → 3 ≤ c.collisions →
            ∃ t, exec (.collision seg p ch) s = .next (t.setFactor .contention) ∧ ended t))
    ∧
  (∀ (c : Controller) (q : QueuedFrame),
      (c.line ≠ .idle → c.joinQueue q = { c with queue := c.queue ++ [q] })
      ∧ (c.line = .idle → c.idle < 4 → c.joinQueue q = { c with queue := c.queue ++ [q], line := .waitGap })
      ∧ (c.line = .idle → 4 ≤ c.idle →
        c.joinQueue q = { c with queue := c.queue ++ [q], line := .transmitting false, idle := 0 }))
    ∧
  (∀ (seg : Segment) (s : State) (f : Frame),
      let c := s.line seg
      (c.line ≠ .disabled → c.queue.length < 4 →
        s.handReply seg f = s.setLine seg (c.joinQueue ⟨.reply, f⟩)
          ∧ s.handNotice seg f = s.setLine seg (c.joinQueue ⟨.notice, f⟩))
      ∧ (c.line = .disabled → s.handReply seg f = s)
      ∧ (c.line = .disabled ∨ 4 ≤ c.queue.length → s.handNotice seg f = s.setFactor .noticeDropped)
      ∧ (4 ≤ c.queue.length → (∀ q ∈ c.queue, q.cls ≠ .notice) → s.handReply seg f = s)
      ∧ ∀ front n back, c.line ≠ .disabled → 4 ≤ c.queue.length → c.queue = front ++ n :: back → n.cls = .notice →
        (∀ q ∈ front, q.cls ≠ .notice) →
          let becomes := fun (d : Controller) => s.handReply seg f =
            (s.setLine seg { d with queue := front ++ back ++ [⟨.reply, f⟩] }).setFactor .noticeDropped
          (front ≠ [] → c.line ≠ .idle → becomes c)
          ∧ (front = [] →
            (∀ k, c.line = .transmitting k → becomes { c with line := .transmitting true, collisions := 0 })
            ∧ (c.line = .waitGap ∨ c.line = .backoff → becomes { c with line := .waitGap, collisions := 0 })
            ∧ (∀ r, c.line = .receiving r → becomes { c with collisions := 0 })))
    ∧
  (∀ (s : State) (a : Addr) (x : Identity) (seg : Segment) (r : VacateReason),
      let code : Byte := match r with | .evicted => 0x01 | .barred => 0x02 | .contestLost => 0x03
      s.sendVacate a x seg r = s.handNotice seg ⟨addrByte a, 0xFE, 0x61, 0, identityBytes x ++ [code]⟩)
    ∧ ∀ (s : State) (f : Frame),
      (s.lineA.line = .disabled → s.lineB.line = .disabled → s.broadcast f = s)
      ∧ (s.lineA.line ≠ .disabled → s.lineB.line = .disabled → s.broadcast f = s.handNotice .a f)
      ∧ (s.lineA.line = .disabled → s.lineB.line ≠ .disabled → s.broadcast f = s.handNotice .b f)
      ∧ (s.lineA.line ≠ .disabled → s.lineB.line ≠ .disabled → s.broadcast f = (s.handNotice .a f).handNotice .b f)

/-! ### The host command port (chapter 9) -/

/-- An exchange begins when CSn falls, with the port status byte of that moment, whatever its kind turns out to be, and ends
when CSn rises. It has shifted out that status byte, then what its kind gives, then 0x00; a status read changes nothing else; a
fetch takes the reply frame, which is discarded once its CRC-8 has gone out, when the port was READY as CSn fell, and the
no-reply marker otherwise, even when an execution has ended since (R173, R174, R178). The two edges are the model's two moments
of a row (log 8); an edge that cannot happen leaves the state as it is (log 1). The
status byte holds READY, BUSY, REFUSED, CHECK, ATTN and the phase; REPLY and CHANGES are never stored (R190, R191, R198,
R199). -/
def Obligations.ExchangesShiftOutStatusAndReply : Prop :=
  (∀ s : State, s.inReset = none →
      ∀ row, row = Instr.statusRead ∨ row = Instr.fetch ∨ row = Instr.commandFrame →
        (s.port.selected = none →
          exec (row .begins) s = .next { s with port := { s.port with selected := some s.statusByte } }
            ∧ ∀ mosi, exec (row (.ends mosi)) s = .next s)
        ∧ (s.port.selected ≠ none → exec (row .begins) s = .next s))
    ∧
  (∀ (s : State) (status : Byte) (mosi : List Byte), s.inReset = none → s.port.selected = some status →
      let out := fun (rest : List Byte) => (status :: (rest ++ List.replicate mosi.length 0)).take mosi.length
      let ended := fun (rest : List Byte) => { s with port := { s.port with selected := none, miso := out rest } }
      (exchangeKind mosi = .statusRead → exec (.statusRead (.ends mosi)) s = .next (ended []))
      ∧ (exchangeKind mosi = .fetch → status.getLsbD 7 = false ∨ (∀ r, s.port.state ≠ .ready r) →
        exec (.fetch (.ends mosi)) s = .next (ended [0xFF]))
      ∧ (∀ answer data, exchangeKind mosi = .fetch → status.getLsbD 7 = true → s.port.state = .ready ⟨answer, data⟩ →
        let content := [answer.code, BitVec.ofNat 8 data.length] ++ data
        let frame := content ++ [crc8 content]
        (mosi.length < 4 + data.length → exec (.fetch (.ends mosi)) s = .next (ended frame))
        ∧ (4 + data.length ≤ mosi.length →
          exec (.fetch (.ends mosi)) s =
            .next { s with port := { s.port with selected := none, miso := out frame, state := .idle } })))
    ∧
  (∀ s : State,
      (s.statusByte.getLsbD 7 = true ↔ ∃ r, s.port.state = .ready r)
      ∧ (s.statusByte.getLsbD 6 = true ↔ ∃ k ps, s.port.state = .executing k ps)
      ∧ s.statusByte.getLsbD 5 = s.port.refused ∧ s.statusByte.getLsbD 4 = s.port.check
      ∧ s.statusByte.getLsbD 3 = s.attn ∧ s.statusByte.getLsbD 2 = false
      ∧ s.statusByte.extractLsb' 0 2 = s.phase.code
      ∧ (s.factors.getLsbD 11 = true ↔ ∃ r, s.port.state = .ready r)
      ∧ (s.factors.getLsbD 10 = true ↔ s.marks ≠ [])
      ∧ (∀ f : Factor, s.factors.getLsbD f.bit = s.factor f)
      ∧ (s.inReset = none → (s.attn = true ↔ ∃ i, i < 12 ∧ s.factors.getLsbD i = true ∧ s.enables.getLsbD i = true)))

/-- A command frame that ends in EXECUTING is refused unchecked, with REFUSED; in IDLE or READY one that passes the three
conditions is taken, with both flags cleared and a held reply discarded, and one that fails them is discarded, with CHECK
(R176, R177). The port decides as it stands at the end of the exchange, and has shifted out the status byte of its beginning
(R174; log 8), so that an execution which ends during the exchange shows as BUSY while the frame is taken. -/
def Obligations.CommandFramesAreCheckedAndTaken : Prop :=
  ∀ (s : State) (status : Byte) (mosi : List Byte), s.inReset = none → s.port.selected = some status →
    exchangeKind mosi = .commandFrame →
    let out := (status :: List.replicate mosi.length 0).take mosi.length
    (∀ k ps, s.port.state = .executing k ps →
      exec (.commandFrame (.ends mosi)) s =
        .next { s with port := { s.port with selected := none, miso := out, refused := true } })
    ∧ ((∀ k ps, s.port.state ≠ .executing k ps) →
      (∀ code len ps, len.toNat ≤ 32 → ps.length = len.toNat →
        mosi = code :: len :: ps ++ [crc8 (code :: len :: ps)] →
        exec (.commandFrame (.ends mosi)) s =
          .next { s with port :=
            { state := .executing code ps, refused := false, check := false, selected := none, miso := out } })
      ∧ ((∀ code len ps, len.toNat ≤ 32 → ps.length = len.toNat →
          mosi ≠ code :: len :: ps ++ [crc8 (code :: len :: ps)]) →
        exec (.commandFrame (.ends mosi)) s =
          .next { s with port := { s.port with selected := none, miso := out, check := true } }))

/-- A command whose code the catalogue does not hold is answered UNKNOWN-COMMAND, and one whose parameters are of a length or
a value it does not accept BAD-PARAMETER; neither changes anything but the port (R179, R180). That START and CLEAR are answered
so in a phase that refuses them too is log 7. -/
def Obligations.CommandsThatCannotRunAreAnswered : Prop :=
  ∀ (s : State) (code : Byte) (ps : List Byte), s.executing code ps →
    (code ∉ catalogue → exec .unknownCommand s = .next (s.replied .unknownCommand []))
    ∧ (code ∈ catalogue → paramsAccepted code ps = false →
      exec (commandRow code) s = .next (s.replied .badParameter []))

/-! ### Segment commands (R163, R169 to R171) -/

/-- CONFIGURE-SEGMENT gives a DISABLED segment a format; ENABLE-SEGMENT takes a DISABLED one to IDLE with empty slots and an
empty queue; DISABLE-SEGMENT empties both, abandons the segment's listing, and sets NOTICE-DROPPED when a notice was lost;
CLEAR-SEGMENT-FLAGS reports the flags as they stood and clears those named. That ENABLE- and DISABLE-SEGMENT set the idle count
to 0 is log 4, and that bits 6 and 7 of the flags byte reported read 0 is log 19. -/
def Obligations.SegmentCommandsActOnOneController : Prop :=
  ∀ (s : State) (ps : List Byte) (seg : Segment),
    let c := s.line seg
    let emptied := { c with ready := [], queue := [], collisions := 0, idle := 0 }
    (∀ fmt, s.executing 0x01 ps → configureParams? ps = some (seg, fmt) →
      (c.line = .disabled → exec .configureSegment s =
        .next ((s.setLine seg { c with format := fmt }).replied .done [fmt.baud.code, fmt.parity.code, fmt.stop.code]))
      ∧ (c.line ≠ .disabled → exec .configureSegment s = .next (s.replied .wrongState [])))
    ∧ (s.executing 0x02 ps → segmentParam? ps = some seg →
      (c.line = .disabled → exec .enableSegment s =
        .next ((s.setLine seg { emptied with line := .idle }).replied .done [0x01]))
      ∧ (c.line ≠ .disabled → exec .enableSegment s = .next (s.replied .done [c.line.code])))
    ∧ (s.executing 0x03 ps → segmentParam? ps = some seg →
      let off := (s.setLine seg { emptied with line := .disabled }).setListing seg none
      (c.line = .disabled → exec .disableSegment s = .next (s.replied .done [0x00]))
      ∧ (c.line ≠ .disabled → (∀ q ∈ c.queue, q.cls ≠ .notice) →
        exec .disableSegment s = .next (off.replied .done [0x00]))
      ∧ (c.line ≠ .disabled → (∃ q ∈ c.queue, q.cls = .notice) →
        exec .disableSegment s = .next ((off.setFactor .noticeDropped).replied .done [0x00])))
    ∧ (∀ named, s.executing 0x04 ps → clearFlagsParams? ps = some (seg, named) →
      exec .clearSegmentFlags s = .next ((s.setLine seg { c with flags := c.flags &&& ~~~named }).replied .done
        [c.line.code, c.format.baud.code, c.format.parity.code, c.format.stop.code, 0#2 ++ c.flags]))

/-! ### The directory phase and the policy (chapters 4, 5, 9) -/

/-- SET-POLICY replaces the eight parameters together, unless the offer limit would lie below the count of OFFERED bindings;
without parameters it reads them. The reply gives the thirteen bytes of the policy now held (R184). -/
def Obligations.SetPolicyReplacesThePolicy : Prop :=
  ∀ (s : State) (ps : List Byte), s.executing 0x10 ps →
    (ps = [] → exec .setPolicy s = .next (s.replied .done (policyBytes s.policy)))
    ∧ ∀ p, policyParams? ps = some p →
      (p.offerLimit < s.offeredCount → exec .setPolicy s = .next (s.replied .limit []))
      ∧ (s.offeredCount ≤ p.offerLimit →
        exec .setPolicy s = .next (({ s with policy := p } : State).replied .done ps))

/-- START in STOPPED with a window of 0 enters RUNNING and changes nothing else (R99). With a window it enters RECALL: every
offer returns to its origin, those of origin FREE to the head of the free queue in ascending order, those of origin HELD to the
tail of the hold queue in ascending order; the admission queue is emptied, and RECALL goes to each enabled segment (R100). The
groups keep limit, policy and members, but for the addresses whose offer does not return to HELD (R7, R13, R154). That with a
hold period of 0 offers of origin HELD join the free queue in ascending order is log 17. STOP in
RECALL or RUNNING sets the phase to STOPPED: every directory timer and admission wait stands still at its value, both listings
are abandoned, and the rest is kept (R80, R102, R137). -/
def Obligations.StartAndStopSetThePhase : Prop :=
  (∀ (s : State) (ps : List Byte) (w : Nat), s.executing 0x11 ps → startParam? ps = some w →
      (s.phase ≠ .stopped → exec .start s = .next (s.replied .wrongPhase []))
      ∧ (s.phase = .stopped → w = 0 → exec .start s = .next (({ s with phase := .running } : State).replied .done [0x02]))
      ∧ (s.phase = .stopped → w ≠ 0 → s.QueuesAgree →
        let fromFree := allAddrs.filter (fun a => match s.binding a with | .offered _ .free _ => true | _ => false)
        let fromHeld := allAddrs.filter (fun a => match s.binding a with | .offered _ .held _ => true | _ => false)
        let period := s.policy.holdPeriod
        ∃ t, exec .start s = .next t
          ∧ t = { (({ s with phase := .recall ⟨w, false⟩, admission := [] } : State).broadcast
                    ⟨0xFF, 0xFE, 0x60, 0, [BitVec.ofNat 8 w]⟩).replied .done [0x01] with
                  table := t.table, freeQueue := t.freeQueue, holdQueue := t.holdQueue, boundary := t.boundary,
                  groups := t.groups, poolFree := t.poolFree, generation := t.generation, marks := t.marks }
          ∧ (∀ a h r, s.binding a = .offered h .free r → t.binding a = .free)
          ∧ (∀ a h r, s.binding a = .offered h .held r →
            t.binding a = if period = 0 then .free else .held (some h) ⟨period, false⟩)
          ∧ (∀ a h k r, s.binding a = .offered h (.reserved k) r → t.binding a = .reserved ⟨h.identity, h.cls, h.tag, k⟩)
          ∧ (∀ a, (s.binding a).state ≠ .offered → t.binding a = s.binding a)
          ∧ t.freeQueue = fromFree ++ s.freeQueue ++ (if period = 0 then fromHeld else [])
          ∧ t.holdQueue = s.holdQueue ++ (if period = 0 then [] else fromHeld)
          ∧ counted s t []
          ∧ (let leaves := fun (a : Addr) =>
              decide ((s.binding a).state = .offered) && decide ((t.binding a).state ≠ .held)
            (∀ g, s.group g = .unused → t.group g = .unused)
            ∧ (∀ g limit p m, s.group g = .opened limit p m →
                t.group g = .opened limit p (m.filter (fun a => !leaves a)))
            ∧ t.poolFree = s.poolFree + ((allAddrs.filter leaves).map s.entriesOf).sum)))
    ∧
  (∀ (s : State), s.executing 0x12 [] →
      (s.phase = .stopped → exec .stop s = .next (s.replied .wrongPhase []))
      ∧ (s.phase ≠ .stopped →
        ∃ t, exec .stop s = .next t
          ∧ t = { ((s.endListing .a).endListing .b).replied .done [0x00] with
                  phase := .stopped, table := t.table,
                  admission := s.admission.map (fun e => { e with wait := ⟨e.wait.remaining, false⟩ }) }
          ∧ t.listing .a = none ∧ t.listing .b = none
          ∧ ∀ a,
            (∀ h o r, s.binding a = .offered h o r → t.binding a = .offered h o ⟨r.remaining, false⟩)
            ∧ (∀ h g r v p, s.binding a = .bound h (.timed g r) v p →
                t.binding a = .bound h (.timed g ⟨r.remaining, false⟩) v p)
            ∧ (∀ o r, s.binding a = .held o r → t.binding a = .held o ⟨r.remaining, false⟩)
            ∧ (∀ h g r v p c k, s.binding a = .contested h (.timed g r) v p c k →
                t.binding a = .contested h (.timed g ⟨r.remaining, false⟩) v p c (k.map (fun n => ⟨n.remaining, false⟩)))
            ∧ (∀ h v p c k, s.binding a = .contested h .permanent v p c k →
                t.binding a = .contested h .permanent v p c (k.map (fun n => ⟨n.remaining, false⟩)))
            ∧ (∀ h v p, s.binding a = .bound h .permanent v p → t.binding a = s.binding a)
            ∧ (∀ r, s.binding a = .reserved r → t.binding a = s.binding a) ∧ (s.binding a = .free → t.binding a = .free)))

/-- CLEAR in STOPPED: with keep reservations every reserved binding goes to RESERVED, every other binding to FREE; the free
queue is rebuilt in ascending order and the hold queue emptied; every membership is dropped, with keep groups an OPEN group
stays OPEN, else it becomes UNUSED; the pool is whole, the admission queue empty, and the listings are abandoned (R29, R69,
R137, R154). The reply gives the records changed and the generation number after. -/
def Obligations.ClearEmptiesTheTable : Prop :=
  ∀ (s : State) (ps : List Byte) (keepReservations keepGroups : Bool),
    s.executing 0x13 ps → clearParams? ps = some (keepReservations, keepGroups) →
    (s.phase ≠ .stopped → exec .clear s = .next (s.replied .wrongPhase []))
    ∧ (s.phase = .stopped →
      ∃ t, exec .clear s = .next t
        ∧ t = { ((s.endListing .a).endListing .b).replied .done
                  (BitVec.ofNat 8 (changedRecords s t []).length :: le32 t.generation) with
                table := t.table, groups := t.groups, generation := t.generation, marks := t.marks,
                freeQueue := allAddrs.filter (fun a => decide (t.binding a = .free)), holdQueue := [], poolFree := 128,
                admission := [], boundary := Boundary.none }
        ∧ counted s t []
        ∧ (∀ a r, keepReservations = true → (s.binding a).reservation? = some r → t.binding a = .reserved r)
        ∧ (∀ a, keepReservations = false ∨ (s.binding a).reservedYes = false → t.binding a = .free)
        ∧ (∀ g, s.group g = .unused → t.group g = .unused)
        ∧ ∀ g limit p m, s.group g = .opened limit p m →
          t.group g = if keepGroups then .opened limit p [] else .unused)

/-! ### Commands that read (R73, R74, R151, R185 to R187, R191) -/

/-- READ-RECORD gives, for each binding state, the fields the record has at the places of R201, zeros where a field is absent,
and the groups of the address; it changes nothing (R3, R186). -/
def Obligations.ReadRecordReportsTheRecord : Prop :=
  ∀ (s : State) (ps : List Byte) (a : Addr), s.executing 0x20 ps → addrParam? ps = some a →
    let who := fun (h : Holder) => identityBytes h.identity ++ [h.cls]
    let zero := fun (n : Nat) => List.replicate n (0 : Byte)
    let tail := fun (tag : Tag) => (BitVec.ofNat 8 tag.length :: tag) ++ zero (8 - tag.length)
      ++ (BitVec.ofNat 8 (s.groupsOf a).length :: (s.groupsOf a).map groupByte)
    let pair := fun (p : Option Replay) => match p with
      | none => zero 3
      | some r => [0#4 ++ r.sequence, r.kind, r.status.code]
    let bit := fun (n : Nat) (p : Bool) => if p then 2 ^ n else 0
    let reads := fun (presence : Nat) (reserved : Bool) (fields : List Byte) =>
      exec .readRecord s = .next (s.replied .done
        ([addrByte a, (s.binding a).state.code] ++ le16 presence ++ [if reserved then 1 else 0] ++ fields))
    (s.binding a = .free → reads 0 false (zero 30 ++ tail []))
    ∧ (∀ r, s.binding a = .reserved r →
      reads 3 true (identityBytes r.identity ++ [r.cls, leaseKindCode r.kind] ++ zero 22 ++ tail r.tag))
    ∧ (∀ h o r, s.binding a = .offered h o r →
      (∀ k, o = .reserved k → reads 27 true
        (who h ++ [leaseKindCode k] ++ zero 4 ++ [segmentCode h.segment, 1, BitVec.ofNat 8 r.remaining] ++ zero 15
          ++ tail h.tag))
      ∧ (o = .free ∨ o = .held → reads 25 false
        (who h ++ zero 5 ++ [segmentCode h.segment, o.code, BitVec.ofNat 8 r.remaining] ++ zero 15 ++ tail h.tag)))
    ∧ (∀ h v p, (∀ g r, s.binding a = .bound h (.timed g r) v p →
        reads (15 + bit 8 p.isSome + bit 9 p.isSome) v
          (who h ++ [0] ++ le16 g ++ le16 r.remaining ++ [segmentCode h.segment] ++ zero 14 ++ pair p ++ tail h.tag))
      ∧ (s.binding a = .bound h .permanent v p →
        reads (11 + bit 8 p.isSome + bit 9 p.isSome) v
          (who h ++ [1] ++ zero 4 ++ [segmentCode h.segment] ++ zero 14 ++ pair p ++ tail h.tag)))
    ∧ (∀ h r, s.binding a = .held (some h) r →
      reads 41 false (who h ++ zero 5 ++ [segmentCode h.segment] ++ zero 2 ++ le16 r.remaining ++ zero 13 ++ tail h.tag))
    ∧ (∀ r, s.binding a = .held none r → reads 32 false (zero 15 ++ le16 r.remaining ++ zero 13 ++ tail []))
    ∧ (∀ h l v p c k, s.binding a = .contested h l v p c k →
      reads (75 + bit 2 (decide (l.kind = .timed)) + bit 7 k.isSome + bit 8 p.isSome + bit 9 p.isSome) v
        (who h ++ [leaseKindCode l.kind]
          ++ (match l with | .timed g r => le16 g ++ le16 r.remaining | .permanent => zero 4)
          ++ [segmentCode h.segment] ++ zero 4 ++ identityBytes c.identity ++ [c.cls, segmentCode c.segment]
          ++ (match k with | some r => le16 r.remaining | none => zero 2) ++ pair p ++ tail h.tag))

/-- FIND-IDENTITY names the binding in which the identity stands, its role and state there, whether it is barred, and its place
in the admission queue (R187). READ-ADMISSION, READ-BARRED, READ-GROUP, READ-FACTORS and READ-STATUS report what stands (R73,
R74, R151, R185, R191). None changes anything. That the barred set stands in the order it is read in is log 15, and that bits 12
to 15 of the two fields of READ-FACTORS read 0 is log 18. -/
def Obligations.ReadingCommandsReportWhatStands : Prop :=
  (∀ (s : State) (ps : List Byte) (x : Identity), s.executing 0x21 ps → identityParam? ps = some x →
      s.IdentitiesStandOnce → (s.admission.map (·.identity)).Nodup →
        ∃ barred position standing,
          exec .findIdentity s = .next (s.replied .done (standing ++ [barred, position]))
          ∧ (x ∈ s.barred → barred = 1) ∧ (x ∉ s.barred → barred = 0)
          ∧ (∀ n e, s.admission[n]? = some e → e.identity = x → position = BitVec.ofNat 8 n)
          ∧ ((∀ e ∈ s.admission, e.identity ≠ x) → position = 0xFF)
          ∧ (∀ a, (s.binding a).identity? = some x → standing = [addrByte a, 0, (s.binding a).state.code])
          ∧ (∀ a, (s.binding a).challenger? = some x → standing = [addrByte a, 1, 5])
          ∧ ((∀ a, x ∉ (s.binding a).parties) → standing = [0, 0xFF, 0xFF]))
    ∧
  (∀ (s : State) (ps : List Byte),
      (∀ p, s.executing 0x30 ps → positionParam? ps = some p →
        (∀ e, s.admission[p]? = some e → exec .readAdmission s = .next (s.replied .done
          (BitVec.ofNat 8 s.admission.length :: identityBytes e.identity ++ [e.cls, segmentCode e.segment]
            ++ le16 e.wait.remaining ++ (BitVec.ofNat 8 e.tag.length :: e.tag))))
        ∧ (s.admission.length ≤ p →
          exec .readAdmission s = .next (s.replied .done [BitVec.ofNat 8 s.admission.length])))
      ∧ (∀ i, s.executing 0x35 ps → barredIndexParam? ps = some i →
        exec .readBarred s = .next (s.replied .done
          (BitVec.ofNat 8 s.barred.length :: (s.barred.extract i (i + 8)).flatMap identityBytes)))
      ∧ (∀ g, s.executing 0x44 ps → groupParam? ps = some g →
        (s.group g = .unused →
          exec .readGroup s = .next (s.replied .done [BitVec.ofNat 8 s.poolFree, groupByte g, 0x00]))
        ∧ ∀ limit p m, s.group g = .opened limit p m → exec .readGroup s = .next (s.replied .done
          ([BitVec.ofNat 8 s.poolFree, groupByte g, 0x01, BitVec.ofNat 8 limit, p.code, BitVec.ofNat 8 m.length]
            ++ m.map addrByte)))
      ∧ (s.executing 0x51 [] → exec .readFactors s = .next (s.replied .done
          (le16 s.factors.toNat ++ le16 s.enables.toNat)))
      ∧ (s.executing 0x60 [] →
        let seconds := match s.phase with | .recall r => r.remaining | .stopped | .running => 0
        let number := fun (k : BindingState) =>
          BitVec.ofNat 8 (allAddrs.filter (fun a => decide ((s.binding a).state = k))).length
        exec .readStatus s = .next (s.replied .done
          ([0#6 ++ s.phase.code, BitVec.ofNat 8 seconds, number .free, number .reserved, number .offered, number .bound,
            number .held, number .contested, BitVec.ofNat 8 s.freeQueue.length, BitVec.ofNat 8 s.holdQueue.length,
            BitVec.ofNat 8 s.admission.length, BitVec.ofNat 8 s.barred.length, BitVec.ofNat 8 s.poolFree]
            ++ le32 s.generation ++ [if s.lastReset = .powerOn then 0 else 1]))))

/-! ### Commands that change one binding (R15, R91 to R96, R120 to R122) -/

/-- RESERVE of a FREE address, or of one HELD for the identity, enters RESERVED; a HELD binding of the identity's elsewhere is
made anonymous. A barred identity, an address in another state, and an identity that stands elsewhere in a binding that is not
HELD fail with WRONG-STATE (R94). UNRESERVE acts by state (R15, R96). MODIFY writes
class and tag of a BOUND or RESERVED binding and acts on its lease by the choice; the identity, segment, reserved attribute and
sequence state stay; in any other state it fails with WRONG-STATE (R93). -/
def Obligations.ReserveUnreserveAndModify : Prop :=
  (∀ (s : State) (ps : List Byte) (a : Addr),
      (∀ r, s.executing 0x22 ps → reserveParams? ps = some (a, r) →
        let u := s.replied .done [addrByte a]
        let free := s.binding a = .free ∨ ∃ h k, s.binding a = .held (some h) k ∧ h.identity = r.identity
        (r.identity ∉ s.barred → free → (∀ b, b ≠ a → r.identity ∉ (s.binding b).parties) →
          ∃ t, exec .reserve s = .next t ∧ goesReserved s u t a r)
        ∧ (∀ b h k, r.identity ∉ s.barred → s.IdentitiesStandOnce → b ≠ a → s.binding a = .free →
          s.binding b = .held (some h) k → h.identity = r.identity →
          ∃ t, exec .reserve s = .next t
            ∧ t = { u with table := t.table, freeQueue := t.freeQueue, holdQueue := t.holdQueue, boundary := t.boundary,
                           groups := t.groups, poolFree := t.poolFree, generation := t.generation, marks := t.marks }
            ∧ t.binding a = .reserved r ∧ t.binding b = .held none k ∧ (∀ d, d ≠ a → d ≠ b → t.binding d = s.binding d)
            ∧ leavesQueues s t a ∧ (∀ g, t.group g = ((s.group g).drop b).drop a)
            ∧ t.poolFree = s.poolFree + s.entriesOf a + s.entriesOf b ∧ counted s t [])
        ∧ (r.identity ∈ s.barred ∨ ¬ free
            ∨ (∃ b, b ≠ a ∧ r.identity ∈ (s.binding b).parties ∧ (s.binding b).state ≠ .held) →
          exec .reserve s = .next (s.replied .wrongState [])))
      ∧ (s.executing 0x23 ps → addrParam? ps = some a →
        (∀ r, s.binding a = .reserved r → ∃ t, exec .unreserve s = .next t ∧ goesFreeTail s (s.replied .done [0]) t a)
        ∧ (∀ h l v p, s.binding a = .bound h l v p →
          ∃ t, exec .unreserve s = .next t ∧ rewrites s (s.replied .done [3]) t a (.bound h l false p) [])
        ∧ (∀ h l v p c k, s.binding a = .contested h l v p c k →
          ∃ t, exec .unreserve s = .next t ∧ rewrites s (s.replied .done [5]) t a (.contested h l false p c k) [])
        ∧ (∀ h k r, s.binding a = .offered h (.reserved k) r →
          ∃ t, exec .unreserve s = .next t ∧ rewrites s (s.replied .done [2]) t a (.offered h .free r) [])
        ∧ (s.binding a = .free ∨ (s.binding a).state = .held
            ∨ (∃ h o r, s.binding a = .offered h o r ∧ (o = .free ∨ o = .held)) →
          exec .unreserve s = .next (s.replied .wrongState []))))
    ∧
  (∀ (s : State) (ps : List Byte) (a : Addr) (c : Byte) (choice : LeaseChoice) (n : Nat) (tag : Tag),
      s.executing 0x25 ps → modifyParams? ps = some (a, c, choice, n, tag) →
      (∀ h l v p, s.binding a = .bound h l v p →
        let after := match choice with | .keep => l | .timed => .timed n ⟨n, false⟩ | .permanent => .permanent
        let granted := if choice = .timed then [a] else []
        ∃ t, exec .modify s = .next t
          ∧ rewrites s (s.replied .done ([3, c, leaseKindCode after.kind] ++ le16 after.grantedField)) t a
              (.bound { h with cls := c, tag := tag } after v p) granted)
      ∧ (∀ r, s.binding a = .reserved r →
        let after := match choice with | .keep => r.kind | .timed => .timed | .permanent => .permanent
        ∃ t, exec .modify s = .next t
          ∧ rewrites s (s.replied .done [1, c, leaseKindCode after, 0, 0]) t a (.reserved ⟨r.identity, c, tag, after⟩) [])
      ∧ ((s.binding a).state ≠ .bound → (s.binding a).state ≠ .reserved →
        exec .modify s = .next (s.replied .wrongState [])))

/-- EVICT ends whatever stands at the address: a BOUND or CONTESTED binding is expelled, VACATE goes to each party on its
segment and its listings are abandoned; an offer returns to its origin; a HELD binding becomes anonymous; FREE and RESERVED
fail with WRONG-STATE (R91). -/
def Obligations.EvictEndsWhatStands : Prop :=
  ∀ (s : State) (ps : List Byte) (a : Addr), s.executing 0x24 ps → addrParam? ps = some a →
    let after := fun (reserved : Bool) => if reserved then 1 else if s.policy.holdPeriod = 0 then 0 else 4
    (∀ h l v p, s.binding a = .bound h l v p →
      ∃ t, exec .evict s = .next t
        ∧ expels s (((s.sendVacate a h.identity h.segment .evicted).withoutListingsOf a).replied .done [3, after v]) t a h l v)
    ∧ (∀ h l v p c k, s.binding a = .contested h l v p c k →
      ∃ t, exec .evict s = .next t
        ∧ expels s ((((s.sendVacate a h.identity h.segment .evicted).sendVacate a c.identity c.segment .evicted)
            |>.withoutListingsOf a).replied .done [5, after v]) t a h l v)
    ∧ (∀ h o r, s.binding a = .offered h o r →
      ∃ t, exec .evict s = .next t
        ∧ revokes s (s.replied .done [2, match o with | .free => 0 | .held => after false | .reserved _ => 1]) t a h o)
    ∧ (∀ h r, s.binding a = .held (some h) r →
      ∃ t, exec .evict s = .next t ∧ becomesAnonymous s (s.replied .done [4, 4]) t a r)
    ∧ (∀ r, s.binding a = .held none r → exec .evict s = .next (s.replied .done [4, 4]))
    ∧ (s.binding a = .free ∨ (s.binding a).state = .reserved → exec .evict s = .next (s.replied .wrongState []))

/-- RESOLVE-CONTEST keeps the incumbent, with its identity, class, tag, segment and memberships; or the challenger, without a
tag and without memberships; or neither, as an expulsion; a keeper is granted a fresh lease, and VACATE goes to each loser,
the incumbent first. An address that is not CONTESTED fails with WRONG-STATE (R120 to R122). -/
def Obligations.ResolveContestSettles : Prop :=
  ∀ (s : State) (ps : List Byte) (a : Addr) (keep : Keep),
    s.executing 0x26 ps → resolveContestParams? ps = some (a, keep) →
    ((s.binding a).state ≠ .contested → exec .resolveContest s = .next (s.replied .wrongState []))
    ∧ ∀ h l v p c k, s.binding a = .contested h l v p c k →
      (keep = .incumbent →
        ∃ t, exec .resolveContest s = .next t
          ∧ moves s ((s.sendVacate a c.identity c.segment .contestLost).replied .done (3 :: identityBytes h.identity)) t a
              (.bound h (s.keeperLease l v) v none) [a]
          ∧ leavesQueues s t a ∧ membershipsKept s t)
      ∧ (keep = .challenger →
        ∃ t, exec .resolveContest s = .next t
          ∧ moves s ((s.sendVacate a h.identity h.segment .contestLost).replied .done (3 :: identityBytes c.identity)) t a
              (.bound ⟨c.identity, c.cls, [], c.segment⟩ (s.keeperLease l v) v none) [a]
          ∧ leavesQueues s t a ∧ membershipsDropped s t a)
      ∧ (keep = .neither →
        let after := if v then 1 else if s.policy.holdPeriod = 0 then 0 else 4
        ∃ t, exec .resolveContest s = .next t
          ∧ expels s ((((s.sendVacate a h.identity h.segment .contestLost).sendVacate a c.identity c.segment .contestLost)
              |>.withoutListingsOf a).replied .done [after, 0, 0, 0, 0, 0, 0]) t a h l v)

/-! ### The admission unit's commands (R71 to R76) -/

/-- APPROVE in RUNNING of an identity with an entry, below the offer limit, offers its RESERVED binding, else the head of the
free queue, else the reclaimed head of the hold queue, with class, tag and segment of the entry; the entry is removed. It
fails with WRONG-PHASE, NO-SUCH, LIMIT or NO-ROOM, in this order (R71). -/
def Obligations.ApproveMakesAnOffer : Prop :=
  ∀ (s : State) (ps : List Byte) (x : Identity), s.executing 0x31 ps → identityParam? ps = some x →
    (s.phase ≠ .running → exec .approve s = .next (s.replied .wrongPhase []))
    ∧ (s.phase = .running → (∀ e ∈ s.admission, e.identity ≠ x) → exec .approve s = .next (s.replied .noSuch []))
    ∧ ∀ e, s.phase = .running → e ∈ s.admission → e.identity = x → s.IdentitiesLawful →
      let offer := fun (a : Addr) => s.replied .done [addrByte a, BitVec.ofNat 8 s.policy.offerWindow]
      let h : Holder := ⟨x, e.cls, e.tag, e.segment⟩
      (s.policy.offerLimit ≤ s.offeredCount → exec .approve s = .next (s.replied .limit []))
      ∧ (s.offeredCount < s.policy.offerLimit →
        (∀ a r, s.binding a = .reserved r → r.identity = x →
          ∃ t, exec .approve s = .next t ∧ offers s (offer a) t a h (.reserved r.kind) ∧ membershipsKept s t)
        ∧ ((∀ a, x ∉ (s.binding a).parties) →
          (∀ a q, s.freeQueue = a :: q → s.binding a = .free →
            ∃ t, exec .approve s = .next t ∧ offers s (offer a) t a h .free ∧ membershipsKept s t)
          ∧ (∀ a q former r, s.freeQueue = [] → s.holdQueue = a :: q → s.binding a = .held (some former) r →
            ∃ t, exec .approve s = .next t ∧ offers s (offer a) t a h .free ∧ membershipsDropped s t a)
          ∧ (∀ a q r, s.freeQueue = [] → s.holdQueue = a :: q → s.binding a = .held none r →
            ∃ t, exec .approve s = .next t ∧ offers s (offer a) t a h .free ∧ membershipsKept s t)
          ∧ (s.freeQueue = [] → s.holdQueue = [] → exec .approve s = .next (s.replied .noRoom []))))

/-- DENY removes the identity's entry and with bar yes adds it to the barred set, unless the set is full; an identity without
an entry fails with NO-SUCH (R72). UNBAR takes an identity out of the set, or fails with NO-SUCH (R74). -/
def Obligations.DenyAndUnbarEditTheSets : Prop :=
  ∀ (s : State) (ps : List Byte) (x : Identity),
    (∀ bar, s.executing 0x32 ps → denyParams? ps = some (x, bar) →
      ((∀ e ∈ s.admission, e.identity ≠ x) → exec .deny s = .next (s.replied .noSuch []))
      ∧ ((∃ e ∈ s.admission, e.identity = x) →
        let entries := s.admission.filter (fun e => decide (e.identity ≠ x))
        (bar = false → exec .deny s = .next (({ s with admission := entries } : State).replied .done []))
        ∧ (bar = true → 16 ≤ s.barred.length → exec .deny s = .next (s.replied .noRoom []))
        ∧ (bar = true → s.barred.length < 16 → x ∉ s.barred →
          ∃ t, exec .deny s = .next t ∧ t = { s.replied .done [] with admission := entries, barred := t.barred }
            ∧ t.barred.Perm (x :: s.barred))))
    ∧ (s.executing 0x34 ps → identityParam? ps = some x →
      (x ∉ s.barred → exec .unbar s = .next (s.replied .noSuch []))
      ∧ (x ∈ s.barred →
        exec .unbar s = .next (({ s with barred := s.barred.filter (fun y => decide (y ≠ x)) } : State).replied .done [])))

/-- BAR adds the identity to the set and removes its entry; the binding it stands in is withdrawn, expelled, settled for the
other party or made anonymous by its state, VACATE going where the identity was bound, and a reservation stays. A barred
identity changes nothing; a full set is NO-ROOM (R75, R76). -/
def Obligations.BarEndsTheStanding : Prop :=
  ∀ (s : State) (ps : List Byte) (x : Identity), s.executing 0x33 ps → identityParam? ps = some x → s.IdentitiesStandOnce →
    (x ∈ s.barred →
      (∀ a r, s.binding a = .reserved r → r.identity = x → exec .bar s = .next (s.replied .done [addrByte a]))
      ∧ ((∀ a r, s.binding a = .reserved r → r.identity ≠ x) → exec .bar s = .next (s.replied .done [0])))
    ∧ (x ∉ s.barred → 16 ≤ s.barred.length → exec .bar s = .next (s.replied .noRoom []))
    ∧ (x ∉ s.barred → s.barred.length < 16 →
      let u := fun (t : State) (a : Addr) => (t.barring x).replied .done [addrByte a]
      (s.barring x).barred.Perm (x :: s.barred)
      ∧ ((∀ a, x ∉ (s.binding a).parties) → exec .bar s = .next ((s.barring x).replied .done [0]))
      ∧ (∀ a r, s.binding a = .reserved r → r.identity = x → exec .bar s = .next (u s a))
      ∧ (∀ a h o r, s.binding a = .offered h o r → h.identity = x →
        ∃ t, exec .bar s = .next t ∧ revokes s (u s a) t a h o)
      ∧ (∀ a h l v p, s.binding a = .bound h l v p → h.identity = x →
        ∃ t, exec .bar s = .next t
          ∧ expels s (u ((s.sendVacate a x h.segment .barred).withoutListingsOf a) a) t a h l v)
      ∧ (∀ a h r, s.binding a = .held (some h) r → h.identity = x →
        ∃ t, exec .bar s = .next t ∧ becomesAnonymous s (u s a) t a r)
      ∧ ∀ a h l v p c k, s.binding a = .contested h l v p c k →
        (h.identity = x →
          ∃ t, exec .bar s = .next t
            ∧ moves s (u (s.sendVacate a x h.segment .barred) a) t a
                (.bound ⟨c.identity, c.cls, [], c.segment⟩ (s.keeperLease l v) v none) [a]
            ∧ leavesQueues s t a ∧ membershipsDropped s t a)
        ∧ (c.identity = x →
          ∃ t, exec .bar s = .next t
            ∧ moves s (u (s.sendVacate a x c.segment .barred) a) t a (.bound h (s.keeperLease l v) v none) [a]
            ∧ leavesQueues s t a ∧ membershipsKept s t))

/-! ### Group commands (chapter 7) -/

/-- OPEN-GROUP opens an UNUSED group with an empty list, or replaces limit and policy of an OPEN one whose members the new limit
admits, which is no record change; else LIMIT (R144). CLOSE-GROUP returns every member entry and sends GROUP-CLOSED to each
enabled segment; an UNUSED group fails with WRONG-STATE (R145).
ADD-MEMBER, by the tests of R149 in their order: UNUSED group, address not bound, already a member, limit reached, empty pool;
else the address joins the tail of the member list and takes an entry. -/
def Obligations.OpenCloseAndAddToGroups : Prop :=
  (∀ (s : State) (ps : List Byte) (g : GroupNo),
      (∀ limit p, s.executing 0x40 ps → openGroupParams? ps = some (g, limit, p) →
        let done := fun (n : Nat) => s.replied .done [1, BitVec.ofNat 8 limit, p.code, BitVec.ofNat 8 n]
        (s.group g = .unused →
          ∃ t, exec .openGroup s = .next t ∧ regroups s (done 0) t g (.opened limit p []) ∧ t.poolFree = s.poolFree
            ∧ t.generation = nextGeneration s.generation ∧ t.marks = putMark (.group g) s.marks)
        ∧ ∀ was policy m, s.group g = .opened was policy m →
          (limit < m.length → exec .openGroup s = .next (s.replied .limit []))
          ∧ (m.length ≤ limit →
            exec .openGroup s = .next { done m.length with groups := s.groups.set g.val (.opened limit p m) }))
      ∧ (s.executing 0x41 ps → groupParam? ps = some g →
        (s.group g = .unused → exec .closeGroup s = .next (s.replied .wrongState []))
        ∧ ∀ limit p m, s.group g = .opened limit p m →
          ∃ t, exec .closeGroup s = .next t
            ∧ regroups s ((s.broadcast ⟨groupAddress g, 0xFE, 0x62, 0, [groupByte g]⟩).replied .done [BitVec.ofNat 8 m.length])
                t g .unused
            ∧ t.poolFree = s.poolFree + m.length))
    ∧
  (∀ (s : State) (ps : List Byte) (g : GroupNo) (a : Addr), s.executing 0x42 ps → memberParams? ps = some (g, a) →
      (s.group g = .unused → exec .addMember s = .next (s.replied .wrongState []))
      ∧ ∀ limit p m, s.group g = .opened limit p m →
        ((s.binding a).isBound = false → exec .addMember s = .next (s.replied .wrongState []))
        ∧ ((s.binding a).isBound = true →
          (a ∈ m → exec .addMember s = .next (s.replied .done [BitVec.ofNat 8 m.length]))
          ∧ (a ∉ m → limit ≤ m.length → exec .addMember s = .next (s.replied .limit []))
          ∧ (a ∉ m → m.length < limit → s.poolFree = 0 → exec .addMember s = .next (s.replied .noRoom []))
          ∧ (a ∉ m → m.length < limit → s.poolFree ≠ 0 →
            ∃ t, exec .addMember s = .next t
              ∧ regroups s (s.replied .done [BitVec.ofNat 8 (m.length + 1)]) t g (.opened limit p (m ++ [a]))
              ∧ t.poolFree = s.poolFree - 1)))

/-- REMOVE-MEMBER (R150): BAD-PARAMETER for a number or address out of range, WRONG-STATE for an UNUSED group, NO-SUCH for an
address that is no member; else the address leaves the place where it stood, whatever the phase, the join policy and its
binding, its entry returns to the pool, the binding and the group are each one record change, and no frame is sent. -/
def Obligations.RemoveMemberTakesTheAddressOut : Prop :=
  ∀ (s : State) (number address : Byte), s.executing 0x43 [number, address] →
    (groupOf? number = none ∨ addrOf? address = none → exec .removeMember s = .next (s.replied .badParameter []))
    ∧ ∀ g a, groupOf? number = some g → addrOf? address = some a →
      (s.group g = .unused → exec .removeMember s = .next (s.replied .wrongState []))
      ∧ (∀ limit p m, s.group g = .opened limit p m → a ∉ m → exec .removeMember s = .next (s.replied .noSuch []))
      ∧ ∀ limit p front back, s.group g = .opened limit p (front ++ a :: back) → a ∉ front → a ∉ back →
        ∃ t, exec .removeMember s = .next t
          ∧ t = { s.replied .done [BitVec.ofNat 8 (front.length + back.length)] with
                  groups := s.groups.set g.val (.opened limit p (front ++ back)), poolFree := s.poolFree + 1,
                  generation := t.generation, marks := t.marks }
          ∧ t.generation = nextGeneration (nextGeneration s.generation)
          ∧ t.marks = putMark (.group g) (putMark (.addr a) s.marks)

/-! ### The attention unit's commands (R191, R193) -/

/-- COLLECT takes the lowest marks, up to 32, out of the change set, and steps no generation number (R193); CLEAR-FACTORS clears
the event factors named, and no condition factor; SET-ENABLES replaces the twelve enables together (R191). That bits 12 to 15 of
the fields that CLEAR-FACTORS and SET-ENABLES report read 0 is log 18. -/
def Obligations.AttentionCommandsActOnTheFactors : Prop :=
  ∀ (s : State) (ps : List Byte),
    (s.executing 0x50 [] → ∀ taken left, s.marks = taken ++ left → taken.length = min 32 s.marks.length →
      exec .collect s = .next (({ s with marks := left } : State).replied .done
        ([BitVec.ofNat 8 taken.length, BitVec.ofNat 8 left.length] ++ taken.map Mark.code)))
    ∧ (∀ named, s.executing 0x52 ps → factorParam? ps = some named →
      ∃ t, exec .clearFactors s = .next t
        ∧ t = { s.replied .done (le16 ({ s with events := t.events } : State).factors.toNat) with events := t.events }
        ∧ ∀ f : Factor, t.factor f = (s.factor f && !named.getLsbD f.bit))
    ∧ (∀ enables, s.executing 0x53 ps → factorParam? ps = some enables →
      exec .setEnables s = .next (({ s with enables := enables } : State).replied .done ps))

/-! ### Laws that hold at every moment -/

/-- After a reset every law below holds. -/
def Obligations.ResetHoldsTheLaws : Prop :=
  State.reset.QueuesAgree ∧ State.reset.IdentitiesLawful ∧ State.reset.OffersLimited ∧ State.reset.CountsLawful
    ∧ State.reset.PoolAccounts ∧ State.reset.MembersStand ∧ State.reset.LinesLawful ∧ State.reset.ListingsLawful
    ∧ State.reset.MarksLawful ∧ State.reset.FramesFit

/-- Every step keeps each address in the free queue exactly when its binding is FREE, in the hold queue exactly when it is HELD,
and in neither twice (R19). -/
def Obligations.StepKeepsTheQueues : Prop :=
  ∀ s t : State, s.QueuesAgree → step s = .next t → t.QueuesAgree

/-- Every step keeps each identity standing in at most one binding, the admission queue within 8 entries of identities that
stand nowhere but in a RESERVED binding, and the barred set within 16 that do likewise, in ascending order (R6, R56, R69, R74;
that the set is stored in that order is log 15). -/
def Obligations.StepKeepsTheIdentities : Prop :=
  ∀ s t : State, s.IdentitiesLawful → step s = .next t → t.IdentitiesLawful

/-- Every step keeps the count of OFFERED bindings within the offer limit, and RECALL without offers and admission entries
(R66, R78, R100, R184); and every count in its range, lease remaining within lease granted, and the policy one that SET-POLICY
accepts (R2, R16, R17, R79, R184). That a count stands at 1 between its boundary and its expiry is log 3. -/
def Obligations.StepKeepsOffersAndCounts : Prop :=
  (∀ s t : State, s.OffersLimited → step s = .next t → t.OffersLimited)
    ∧ ∀ s t : State, s.CountsLawful → step s = .next t → t.CountsLawful

/-- Every step keeps the member entries in use and the free ones at 128 together, no list over its limit or with an address
twice (R142, R143), and every member in a binding that may belong to a group (R142, R152). -/
def Obligations.StepKeepsThePoolAndMembers : Prop :=
  ∀ s t : State, s.QueuesAgree → s.PoolAccounts → s.MembersStand → step s = .next t → t.PoolAccounts ∧ t.MembersStand

/-- Every step keeps the receive slots, the transmit queue and the collision count of each segment within what its state allows
(R155, R158, R160, R164, R167). -/
def Obligations.StepKeepsTheLines : Prop :=
  ∀ s t : State, s.LinesLawful → step s = .next t → t.LinesLawful

/-- Every step keeps a listing outside STOPPED, on an enabled segment, for a bound requester, with 1 to 4 sends of a frame of
index at most 23, its timer stopped exactly while one awaited copy waits in the queue (R130 to R137). The lines are taken as
StepKeepsTheLines keeps them: a DISABLED segment has no frame in a receive slot (R155). -/
def Obligations.StepKeepsTheListings : Prop :=
  ∀ s t : State, s.LinesLawful → s.ListingsLawful → step s = .next t → t.ListingsLawful

/-- Every step keeps every frame and reply within the lengths of chapter 11: tags of 8 bytes, bodies of 40, parameters of 32,
reply data of 61 (R2, R37, R176, R178, R195). -/
def Obligations.StepKeepsFramesWithinTheirLengths : Prop :=
  ∀ s t : State, s.PoolAccounts → s.FramesFit → step s = .next t → t.FramesFit

/-- Every command but SECONDS_BOUNDARY is one application: the generation number steps exactly once for each record that
changed, a lease granted to one binding counted as a change of it. That an ASK which settles a contest and reclaims from the same
group counts that group once is log 6 (R25 against R58's separate counting). SECONDS_BOUNDARY applies no more than the expiries still
outstanding (log 3): it steps at least once for each record that changed, and at most 112 times, once for each record there is,
for each count that is due. Each changed record is marked; only COLLECT and the resets take marks out; the change set stays in
order (R25 to R27, R193). -/
def Obligations.ChangesAreCountedAndMarked : Prop :=
  ∀ (c : Instr) (s t : State), exec c s = .next t → c ≠ .powerOnReset → c ≠ .pinReset →
    (c ≠ .secondsBoundary → ∃ granted : List Addr, granted.length ≤ 1
      ∧ (∀ a ∈ granted, ∃ h n v p, t.binding a = .bound h (.timed n ⟨n, false⟩) v p)
      ∧ t.generation = iterate nextGeneration (changedRecords s t granted).length s.generation)
    ∧ (c = .secondsBoundary → ∃ k, (changedRecords s t []).length ≤ k
      ∧ k ≤ 112 * allAddrs.countP (fun a => (s.binding a).due)
      ∧ t.generation = iterate nextGeneration k s.generation)
    ∧ (c ≠ .collect → ∀ m, m ∈ changedRecords s t [] ∨ m ∈ s.marks → m ∈ t.marks)
    ∧ (s.MarksLawful → t.MarksLawful)
end

