-- ==== Sys2Proof/Laws/State.lean ====
section
/-! SUPPORT. One law per update of State: what it leaves as it was, and what is read back after it. -/

namespace Sys2Proof.Machine

/-- Writing a binding record changes the table alone. -/
@[simp] theorem State.setBinding_keeps (a : Addr) (b : Binding) (s : State) :
    (s.setBinding a b).freeQueue = s.freeQueue ∧ (s.setBinding a b).holdQueue = s.holdQueue
    ∧ (s.setBinding a b).phase = s.phase ∧ (s.setBinding a b).policy = s.policy
    ∧ (s.setBinding a b).generation = s.generation ∧ (s.setBinding a b).marks = s.marks
    ∧ (s.setBinding a b).boundary = s.boundary ∧ (s.setBinding a b).admission = s.admission
    ∧ (s.setBinding a b).barred = s.barred ∧ (s.setBinding a b).groups = s.groups
    ∧ (s.setBinding a b).poolFree = s.poolFree ∧ (s.setBinding a b).lineA = s.lineA
    ∧ (s.setBinding a b).lineB = s.lineB ∧ (s.setBinding a b).listingA = s.listingA
    ∧ (s.setBinding a b).listingB = s.listingB ∧ (s.setBinding a b).port = s.port
    ∧ (s.setBinding a b).events = s.events ∧ (s.setBinding a b).enables = s.enables
    ∧ (s.setBinding a b).lastReset = s.lastReset ∧ (s.setBinding a b).inReset = s.inReset
    ∧ (s.setBinding a b).pending = s.pending ∧ (∀ k, (s.setBinding a b).group k = s.group k)
    ∧ (∀ k, (s.setBinding a b).line k = s.line k) ∧ (∀ k, (s.setBinding a b).listing k = s.listing k) := by
  and_intros <;> first | rfl | (intro k; cases k <;> rfl)

/-- Writing a group record changes the group table alone. -/
@[simp] theorem State.setGroup_keeps (g : GroupNo) (r : GroupRecord) (s : State) :
    (s.setGroup g r).table = s.table ∧ (s.setGroup g r).freeQueue = s.freeQueue
    ∧ (s.setGroup g r).holdQueue = s.holdQueue ∧ (s.setGroup g r).phase = s.phase
    ∧ (s.setGroup g r).policy = s.policy ∧ (s.setGroup g r).generation = s.generation
    ∧ (s.setGroup g r).marks = s.marks ∧ (s.setGroup g r).boundary = s.boundary
    ∧ (s.setGroup g r).admission = s.admission ∧ (s.setGroup g r).barred = s.barred
    ∧ (s.setGroup g r).poolFree = s.poolFree ∧ (s.setGroup g r).lineA = s.lineA ∧ (s.setGroup g r).lineB = s.lineB
    ∧ (s.setGroup g r).listingA = s.listingA ∧ (s.setGroup g r).listingB = s.listingB
    ∧ (s.setGroup g r).port = s.port ∧ (s.setGroup g r).events = s.events ∧ (s.setGroup g r).enables = s.enables
    ∧ (s.setGroup g r).lastReset = s.lastReset ∧ (s.setGroup g r).inReset = s.inReset
    ∧ (s.setGroup g r).pending = s.pending ∧ (∀ k, (s.setGroup g r).binding k = s.binding k)
    ∧ (∀ k, (s.setGroup g r).line k = s.line k) ∧ (∀ k, (s.setGroup g r).listing k = s.listing k) := by
  and_intros <;> first | rfl | (intro k; cases k <;> rfl)

/-- Writing a controller changes the controllers alone. -/
@[simp] theorem State.setLine_keeps (seg : Segment) (c : Controller) (s : State) :
    (s.setLine seg c).table = s.table ∧ (s.setLine seg c).freeQueue = s.freeQueue
    ∧ (s.setLine seg c).holdQueue = s.holdQueue ∧ (s.setLine seg c).phase = s.phase
    ∧ (s.setLine seg c).policy = s.policy ∧ (s.setLine seg c).generation = s.generation
    ∧ (s.setLine seg c).marks = s.marks ∧ (s.setLine seg c).boundary = s.boundary
    ∧ (s.setLine seg c).admission = s.admission ∧ (s.setLine seg c).barred = s.barred
    ∧ (s.setLine seg c).groups = s.groups ∧ (s.setLine seg c).poolFree = s.poolFree
    ∧ (s.setLine seg c).listingA = s.listingA ∧ (s.setLine seg c).listingB = s.listingB
    ∧ (s.setLine seg c).port = s.port ∧ (s.setLine seg c).events = s.events ∧ (s.setLine seg c).enables = s.enables
    ∧ (s.setLine seg c).lastReset = s.lastReset ∧ (s.setLine seg c).inReset = s.inReset
    ∧ (s.setLine seg c).pending = s.pending ∧ (∀ k, (s.setLine seg c).binding k = s.binding k)
    ∧ (∀ k, (s.setLine seg c).group k = s.group k) ∧ (∀ k, (s.setLine seg c).listing k = s.listing k) := by
  cases seg <;> (and_intros <;> first | rfl | (intro k; cases k <;> rfl))

/-- Writing a listing changes the listing units alone. -/
@[simp] theorem State.setListing_keeps (seg : Segment) (l : Option Listing) (s : State) :
    (s.setListing seg l).table = s.table ∧ (s.setListing seg l).freeQueue = s.freeQueue
    ∧ (s.setListing seg l).holdQueue = s.holdQueue ∧ (s.setListing seg l).phase = s.phase
    ∧ (s.setListing seg l).policy = s.policy ∧ (s.setListing seg l).generation = s.generation
    ∧ (s.setListing seg l).marks = s.marks ∧ (s.setListing seg l).boundary = s.boundary
    ∧ (s.setListing seg l).admission = s.admission ∧ (s.setListing seg l).barred = s.barred
    ∧ (s.setListing seg l).groups = s.groups ∧ (s.setListing seg l).poolFree = s.poolFree
    ∧ (s.setListing seg l).lineA = s.lineA ∧ (s.setListing seg l).lineB = s.lineB
    ∧ (s.setListing seg l).port = s.port ∧ (s.setListing seg l).events = s.events
    ∧ (s.setListing seg l).enables = s.enables ∧ (s.setListing seg l).lastReset = s.lastReset
    ∧ (s.setListing seg l).inReset = s.inReset ∧ (s.setListing seg l).pending = s.pending
    ∧ (∀ k, (s.setListing seg l).binding k = s.binding k) ∧ (∀ k, (s.setListing seg l).group k = s.group k)
    ∧ (∀ k, (s.setListing seg l).line k = s.line k) := by
  cases seg <;> (and_intros <;> first | rfl | (intro k; cases k <;> rfl))

/-- Writing the port changes the port alone. -/
@[simp] theorem State.setPort_keeps (p : Port) (s : State) :
    (s.setPort p).table = s.table ∧ (s.setPort p).freeQueue = s.freeQueue ∧ (s.setPort p).holdQueue = s.holdQueue
    ∧ (s.setPort p).phase = s.phase ∧ (s.setPort p).policy = s.policy ∧ (s.setPort p).generation = s.generation
    ∧ (s.setPort p).marks = s.marks ∧ (s.setPort p).boundary = s.boundary ∧ (s.setPort p).admission = s.admission
    ∧ (s.setPort p).barred = s.barred ∧ (s.setPort p).groups = s.groups ∧ (s.setPort p).poolFree = s.poolFree
    ∧ (s.setPort p).lineA = s.lineA ∧ (s.setPort p).lineB = s.lineB ∧ (s.setPort p).listingA = s.listingA
    ∧ (s.setPort p).listingB = s.listingB ∧ (s.setPort p).events = s.events ∧ (s.setPort p).enables = s.enables
    ∧ (s.setPort p).lastReset = s.lastReset ∧ (s.setPort p).inReset = s.inReset ∧ (s.setPort p).pending = s.pending
    ∧ (∀ k, (s.setPort p).binding k = s.binding k) ∧ (∀ k, (s.setPort p).group k = s.group k)
    ∧ (∀ k, (s.setPort p).line k = s.line k) ∧ (∀ k, (s.setPort p).listing k = s.listing k) := by
  and_intros <;> first | rfl | (intro k; cases k <;> rfl)

/-- Setting a factor changes the event factors alone. -/
@[simp] theorem State.setFactor_keeps (f : Factor) (s : State) :
    (s.setFactor f).table = s.table ∧ (s.setFactor f).freeQueue = s.freeQueue
    ∧ (s.setFactor f).holdQueue = s.holdQueue ∧ (s.setFactor f).phase = s.phase ∧ (s.setFactor f).policy = s.policy
    ∧ (s.setFactor f).generation = s.generation ∧ (s.setFactor f).marks = s.marks
    ∧ (s.setFactor f).boundary = s.boundary ∧ (s.setFactor f).admission = s.admission
    ∧ (s.setFactor f).barred = s.barred ∧ (s.setFactor f).groups = s.groups ∧ (s.setFactor f).poolFree = s.poolFree
    ∧ (s.setFactor f).lineA = s.lineA ∧ (s.setFactor f).lineB = s.lineB ∧ (s.setFactor f).listingA = s.listingA
    ∧ (s.setFactor f).listingB = s.listingB ∧ (s.setFactor f).port = s.port ∧ (s.setFactor f).enables = s.enables
    ∧ (s.setFactor f).lastReset = s.lastReset ∧ (s.setFactor f).inReset = s.inReset
    ∧ (s.setFactor f).pending = s.pending ∧ (∀ k, (s.setFactor f).binding k = s.binding k)
    ∧ (∀ k, (s.setFactor f).group k = s.group k) ∧ (∀ k, (s.setFactor f).line k = s.line k)
    ∧ (∀ k, (s.setFactor f).listing k = s.listing k) := by
  and_intros <;> first | rfl | (intro k; cases k <;> rfl)

/-- Removing an admission entry changes the admission queue alone. -/
@[simp] theorem State.removeEntry_keeps (x : Identity) (s : State) :
    (s.removeEntry x).table = s.table ∧ (s.removeEntry x).freeQueue = s.freeQueue
    ∧ (s.removeEntry x).holdQueue = s.holdQueue ∧ (s.removeEntry x).phase = s.phase
    ∧ (s.removeEntry x).policy = s.policy ∧ (s.removeEntry x).generation = s.generation
    ∧ (s.removeEntry x).marks = s.marks ∧ (s.removeEntry x).boundary = s.boundary
    ∧ (s.removeEntry x).barred = s.barred ∧ (s.removeEntry x).groups = s.groups
    ∧ (s.removeEntry x).poolFree = s.poolFree ∧ (s.removeEntry x).lineA = s.lineA
    ∧ (s.removeEntry x).lineB = s.lineB ∧ (s.removeEntry x).listingA = s.listingA
    ∧ (s.removeEntry x).listingB = s.listingB ∧ (s.removeEntry x).port = s.port
    ∧ (s.removeEntry x).events = s.events ∧ (s.removeEntry x).enables = s.enables
    ∧ (s.removeEntry x).lastReset = s.lastReset ∧ (s.removeEntry x).inReset = s.inReset
    ∧ (s.removeEntry x).pending = s.pending ∧ (∀ k, (s.removeEntry x).binding k = s.binding k)
    ∧ (∀ k, (s.removeEntry x).group k = s.group k) ∧ (∀ k, (s.removeEntry x).line k = s.line k)
    ∧ (∀ k, (s.removeEntry x).listing k = s.listing k) := by
  and_intros <;> first | rfl | (intro k; cases k <;> rfl)

/-- Barring changes the barred set alone. -/
@[simp] theorem State.addBarred_keeps (x : Identity) (s : State) :
    (s.addBarred x).table = s.table ∧ (s.addBarred x).freeQueue = s.freeQueue
    ∧ (s.addBarred x).holdQueue = s.holdQueue ∧ (s.addBarred x).phase = s.phase ∧ (s.addBarred x).policy = s.policy
    ∧ (s.addBarred x).generation = s.generation ∧ (s.addBarred x).marks = s.marks
    ∧ (s.addBarred x).boundary = s.boundary ∧ (s.addBarred x).admission = s.admission
    ∧ (s.addBarred x).groups = s.groups ∧ (s.addBarred x).poolFree = s.poolFree ∧ (s.addBarred x).lineA = s.lineA
    ∧ (s.addBarred x).lineB = s.lineB ∧ (s.addBarred x).listingA = s.listingA
    ∧ (s.addBarred x).listingB = s.listingB ∧ (s.addBarred x).port = s.port ∧ (s.addBarred x).events = s.events
    ∧ (s.addBarred x).enables = s.enables ∧ (s.addBarred x).lastReset = s.lastReset
    ∧ (s.addBarred x).inReset = s.inReset ∧ (s.addBarred x).pending = s.pending
    ∧ (∀ k, (s.addBarred x).binding k = s.binding k) ∧ (∀ k, (s.addBarred x).group k = s.group k)
    ∧ (∀ k, (s.addBarred x).line k = s.line k) ∧ (∀ k, (s.addBarred x).listing k = s.listing k) := by
  unfold State.addBarred; split <;> (and_intros <;> first | rfl | (intro k; cases k <;> rfl))

/-- Leaving the queues changes the queues alone. -/
@[simp] theorem State.leaveQueues_keeps (a : Addr) (s : State) :
    (s.leaveQueues a).table = s.table ∧ (s.leaveQueues a).phase = s.phase ∧ (s.leaveQueues a).policy = s.policy
    ∧ (s.leaveQueues a).generation = s.generation ∧ (s.leaveQueues a).marks = s.marks
    ∧ (s.leaveQueues a).admission = s.admission ∧ (s.leaveQueues a).barred = s.barred
    ∧ (s.leaveQueues a).groups = s.groups ∧ (s.leaveQueues a).poolFree = s.poolFree
    ∧ (s.leaveQueues a).lineA = s.lineA ∧ (s.leaveQueues a).lineB = s.lineB
    ∧ (s.leaveQueues a).listingA = s.listingA ∧ (s.leaveQueues a).listingB = s.listingB
    ∧ (s.leaveQueues a).port = s.port ∧ (s.leaveQueues a).events = s.events ∧ (s.leaveQueues a).enables = s.enables
    ∧ (s.leaveQueues a).lastReset = s.lastReset ∧ (s.leaveQueues a).inReset = s.inReset
    ∧ (s.leaveQueues a).pending = s.pending ∧ (∀ k, (s.leaveQueues a).binding k = s.binding k)
    ∧ (∀ k, (s.leaveQueues a).group k = s.group k) ∧ (∀ k, (s.leaveQueues a).line k = s.line k)
    ∧ (∀ k, (s.leaveQueues a).listing k = s.listing k) := by
  and_intros <;> first | rfl | (intro k; cases k <;> rfl)

/-- Joining the free queue changes that queue alone. -/
@[simp] theorem State.joinFree_keeps (p : FreePlace) (a : Addr) (s : State) :
    (s.joinFree p a).table = s.table ∧ (s.joinFree p a).holdQueue = s.holdQueue ∧ (s.joinFree p a).phase = s.phase
    ∧ (s.joinFree p a).policy = s.policy ∧ (s.joinFree p a).generation = s.generation
    ∧ (s.joinFree p a).marks = s.marks ∧ (s.joinFree p a).admission = s.admission
    ∧ (s.joinFree p a).barred = s.barred ∧ (s.joinFree p a).groups = s.groups
    ∧ (s.joinFree p a).poolFree = s.poolFree ∧ (s.joinFree p a).lineA = s.lineA ∧ (s.joinFree p a).lineB = s.lineB
    ∧ (s.joinFree p a).listingA = s.listingA ∧ (s.joinFree p a).listingB = s.listingB
    ∧ (s.joinFree p a).port = s.port ∧ (s.joinFree p a).events = s.events ∧ (s.joinFree p a).enables = s.enables
    ∧ (s.joinFree p a).lastReset = s.lastReset ∧ (s.joinFree p a).inReset = s.inReset
    ∧ (s.joinFree p a).pending = s.pending ∧ (∀ k, (s.joinFree p a).binding k = s.binding k)
    ∧ (∀ k, (s.joinFree p a).group k = s.group k) ∧ (∀ k, (s.joinFree p a).line k = s.line k)
    ∧ (∀ k, (s.joinFree p a).listing k = s.listing k) := by
  cases p <;> (and_intros <;> first | rfl | (intro k; cases k <;> rfl))

/-- Joining the hold queue changes that queue alone. -/
@[simp] theorem State.joinHold_keeps (h : Bool) (a : Addr) (s : State) :
    (s.joinHold h a).table = s.table ∧ (s.joinHold h a).freeQueue = s.freeQueue ∧ (s.joinHold h a).phase = s.phase
    ∧ (s.joinHold h a).policy = s.policy ∧ (s.joinHold h a).generation = s.generation
    ∧ (s.joinHold h a).marks = s.marks ∧ (s.joinHold h a).admission = s.admission
    ∧ (s.joinHold h a).barred = s.barred ∧ (s.joinHold h a).groups = s.groups
    ∧ (s.joinHold h a).poolFree = s.poolFree ∧ (s.joinHold h a).lineA = s.lineA ∧ (s.joinHold h a).lineB = s.lineB
    ∧ (s.joinHold h a).listingA = s.listingA ∧ (s.joinHold h a).listingB = s.listingB
    ∧ (s.joinHold h a).port = s.port ∧ (s.joinHold h a).events = s.events ∧ (s.joinHold h a).enables = s.enables
    ∧ (s.joinHold h a).lastReset = s.lastReset ∧ (s.joinHold h a).inReset = s.inReset
    ∧ (s.joinHold h a).pending = s.pending ∧ (∀ k, (s.joinHold h a).binding k = s.binding k)
    ∧ (∀ k, (s.joinHold h a).group k = s.group k) ∧ (∀ k, (s.joinHold h a).line k = s.line k)
    ∧ (∀ k, (s.joinHold h a).listing k = s.listing k) := by
  cases h <;> (and_intros <;> first | rfl | (intro k; cases k <;> rfl))

/-- A membership drop changes the groups and the pool alone. -/
@[simp] theorem State.dropMember_keeps (a : Addr) (s : State) :
    (s.dropMember a).table = s.table ∧ (s.dropMember a).freeQueue = s.freeQueue
    ∧ (s.dropMember a).holdQueue = s.holdQueue ∧ (s.dropMember a).phase = s.phase
    ∧ (s.dropMember a).policy = s.policy ∧ (s.dropMember a).generation = s.generation
    ∧ (s.dropMember a).marks = s.marks ∧ (s.dropMember a).boundary = s.boundary
    ∧ (s.dropMember a).admission = s.admission ∧ (s.dropMember a).barred = s.barred
    ∧ (s.dropMember a).lineA = s.lineA ∧ (s.dropMember a).lineB = s.lineB ∧ (s.dropMember a).listingA = s.listingA
    ∧ (s.dropMember a).listingB = s.listingB ∧ (s.dropMember a).port = s.port ∧ (s.dropMember a).events = s.events
    ∧ (s.dropMember a).enables = s.enables ∧ (s.dropMember a).lastReset = s.lastReset
    ∧ (s.dropMember a).inReset = s.inReset ∧ (s.dropMember a).pending = s.pending
    ∧ (∀ k, (s.dropMember a).binding k = s.binding k) ∧ (∀ k, (s.dropMember a).line k = s.line k)
    ∧ (∀ k, (s.dropMember a).listing k = s.listing k) := by
  and_intros <;> first | rfl | (intro k; cases k <;> rfl)

/-- Counting changes touches the generation number and the change set alone. -/
@[simp] theorem State.recordChanges_keeps (ms : List Mark) (s : State) :
    (s.recordChanges ms).table = s.table ∧ (s.recordChanges ms).freeQueue = s.freeQueue
    ∧ (s.recordChanges ms).holdQueue = s.holdQueue ∧ (s.recordChanges ms).phase = s.phase
    ∧ (s.recordChanges ms).policy = s.policy ∧ (s.recordChanges ms).boundary = s.boundary
    ∧ (s.recordChanges ms).admission = s.admission ∧ (s.recordChanges ms).barred = s.barred
    ∧ (s.recordChanges ms).groups = s.groups ∧ (s.recordChanges ms).poolFree = s.poolFree
    ∧ (s.recordChanges ms).lineA = s.lineA ∧ (s.recordChanges ms).lineB = s.lineB
    ∧ (s.recordChanges ms).listingA = s.listingA ∧ (s.recordChanges ms).listingB = s.listingB
    ∧ (s.recordChanges ms).port = s.port ∧ (s.recordChanges ms).events = s.events
    ∧ (s.recordChanges ms).enables = s.enables ∧ (s.recordChanges ms).lastReset = s.lastReset
    ∧ (s.recordChanges ms).inReset = s.inReset ∧ (s.recordChanges ms).pending = s.pending
    ∧ (∀ k, (s.recordChanges ms).binding k = s.binding k) ∧ (∀ k, (s.recordChanges ms).group k = s.group k)
    ∧ (∀ k, (s.recordChanges ms).line k = s.line k) ∧ (∀ k, (s.recordChanges ms).listing k = s.listing k) := by
  and_intros <;> first | rfl | (intro k; cases k <;> rfl)


/-! ### What is read back -/

@[simp] theorem State.binding_setBinding_self (a : Addr) (b : Binding) (s : State) :
    (s.setBinding a b).binding a = b := by
  simp [State.binding, State.setBinding]

theorem State.binding_setBinding (a c : Addr) (b : Binding) (s : State) :
    (s.setBinding a b).binding c = if c = a then b else s.binding c := by
  simp only [State.binding, State.setBinding, Vector.getElem_set, Fin.ext_iff, eq_comm]

@[simp] theorem State.binding_setBinding_ne {a c : Addr} (h : c ≠ a) (b : Binding) (s : State) :
    (s.setBinding a b).binding c = s.binding c := by
  rw [State.binding_setBinding, if_neg h]

@[simp] theorem State.setBinding_binding (a : Addr) (s : State) : s.setBinding a (s.binding a) = s := by
  simp [State.setBinding, State.binding]

@[simp] theorem State.group_setGroup_self (g : GroupNo) (r : GroupRecord) (s : State) :
    (s.setGroup g r).group g = r := by
  simp [State.group, State.setGroup]

theorem State.group_setGroup (g k : GroupNo) (r : GroupRecord) (s : State) :
    (s.setGroup g r).group k = if k = g then r else s.group k := by
  simp only [State.group, State.setGroup, Vector.getElem_set, Fin.ext_iff, eq_comm]

@[simp] theorem State.group_setGroup_ne {g k : GroupNo} (h : k ≠ g) (r : GroupRecord) (s : State) :
    (s.setGroup g r).group k = s.group k := by
  rw [State.group_setGroup, if_neg h]

@[simp] theorem State.line_setLine_self (seg : Segment) (c : Controller) (s : State) : (s.setLine seg c).line seg = c := by
  cases seg <;> rfl

theorem State.line_setLine (seg g : Segment) (c : Controller) (s : State) :
    (s.setLine seg c).line g = if g = seg then c else s.line g := by
  cases seg <;> cases g <;> rfl

@[simp] theorem State.line_setLine_ne {seg g : Segment} (h : g ≠ seg) (c : Controller) (s : State) :
    (s.setLine seg c).line g = s.line g := by
  rw [State.line_setLine, if_neg h]

@[simp] theorem State.setLine_line (seg : Segment) (s : State) : s.setLine seg (s.line seg) = s := by
  cases seg <;> rfl

@[simp] theorem State.listing_setListing_self (seg : Segment) (l : Option Listing) (s : State) :
    (s.setListing seg l).listing seg = l := by
  cases seg <;> rfl

theorem State.listing_setListing (seg g : Segment) (l : Option Listing) (s : State) :
    (s.setListing seg l).listing g = if g = seg then l else s.listing g := by
  cases seg <;> cases g <;> rfl

@[simp] theorem State.listing_setListing_ne {seg g : Segment} (h : g ≠ seg) (l : Option Listing) (s : State) :
    (s.setListing seg l).listing g = s.listing g := by
  rw [State.listing_setListing, if_neg h]

@[simp] theorem State.port_setPort (p : Port) (s : State) : (s.setPort p).port = p := rfl

@[simp] theorem State.admission_removeEntry (x : Identity) (s : State) :
    (s.removeEntry x).admission = s.admission.filter (fun e => decide (e.identity ≠ x)) := rfl

@[simp] theorem State.events_setFactor (f : Factor) (s : State) :
    (s.setFactor f).events = s.events ||| BitVec.twoPow 10 f.bit := rfl

@[simp] theorem State.queues_leaveQueues (a : Addr) (s : State) :
    (s.leaveQueues a).freeQueue = dropAddr a s.freeQueue ∧ (s.leaveQueues a).holdQueue = dropAddr a s.holdQueue :=
  ⟨rfl, rfl⟩

@[simp] theorem State.group_dropMember (a : Addr) (g : GroupNo) (s : State) :
    (s.dropMember a).group g = (s.group g).drop a := by
  simp [State.group, State.dropMember]

@[simp] theorem State.poolFree_dropMember (a : Addr) (s : State) :
    (s.dropMember a).poolFree = s.poolFree + s.entriesOf a := rfl

/-- The binding a table reads at an address after every record went through one function. -/
theorem State.binding_map (f : Binding → Binding) (a : Addr) (s : State) :
    ({ s with table := s.table.map f } : State).binding a = f (s.binding a) := by
  simp [State.binding]

/-- Two states with the same bindings have the same table. -/
theorem State.table_ext {s t : State} (h : ∀ a, s.binding a = t.binding a) : s.table = t.table := by
  apply Vector.ext
  intro i hi
  exact h ⟨i, hi⟩

/-- Two states with the same groups have the same group table. -/
theorem State.groups_ext {s t : State} (h : ∀ g, s.group g = t.group g) : s.groups = t.groups := by
  apply Vector.ext
  intro i hi
  exact h ⟨i, hi⟩

end Sys2Proof.Machine
end

