-- ==== Sys2Proof/Laws/Table.lean ====
section
/-! SUPPORT. The shared operations over the table, one law each of what it leaves as it was, and one of the record it
writes. -/

namespace Sys2Proof.Machine

/-- An entry into FREE touches the table, its queues and memberships alone. -/
@[simp] theorem State.goFree_keeps (p : FreePlace) (a : Addr) (s : State) :
    (s.goFree p a).phase = s.phase ∧ (s.goFree p a).policy = s.policy ∧ (s.goFree p a).generation = s.generation
    ∧ (s.goFree p a).marks = s.marks ∧ (s.goFree p a).admission = s.admission ∧ (s.goFree p a).barred = s.barred
    ∧ (s.goFree p a).lineA = s.lineA ∧ (s.goFree p a).lineB = s.lineB ∧ (s.goFree p a).listingA = s.listingA
    ∧ (s.goFree p a).listingB = s.listingB ∧ (s.goFree p a).port = s.port ∧ (s.goFree p a).events = s.events
    ∧ (s.goFree p a).enables = s.enables ∧ (s.goFree p a).lastReset = s.lastReset
    ∧ (s.goFree p a).inReset = s.inReset ∧ (s.goFree p a).pending = s.pending
    ∧ (∀ k, (s.goFree p a).line k = s.line k) ∧ (∀ k, (s.goFree p a).listing k = s.listing k) := by
  simp [State.goFree]

@[simp] theorem State.goFree_others (p : FreePlace) {a k : Addr} (h_ne : k ≠ a) (s : State) :
    (s.goFree p a).binding k = s.binding k := by
  simp [h_ne, State.goFree]

/-- An entry into HELD touches the table and its queues alone. -/
@[simp] theorem State.enterHold_keeps (f : Option Holder) (h : Bool) (a : Addr) (s : State) :
    (s.enterHold f h a).phase = s.phase ∧ (s.enterHold f h a).policy = s.policy
    ∧ (s.enterHold f h a).generation = s.generation ∧ (s.enterHold f h a).marks = s.marks
    ∧ (s.enterHold f h a).admission = s.admission ∧ (s.enterHold f h a).barred = s.barred
    ∧ (s.enterHold f h a).groups = s.groups ∧ (s.enterHold f h a).poolFree = s.poolFree
    ∧ (s.enterHold f h a).lineA = s.lineA ∧ (s.enterHold f h a).lineB = s.lineB
    ∧ (s.enterHold f h a).listingA = s.listingA ∧ (s.enterHold f h a).listingB = s.listingB
    ∧ (s.enterHold f h a).port = s.port ∧ (s.enterHold f h a).events = s.events
    ∧ (s.enterHold f h a).enables = s.enables ∧ (s.enterHold f h a).lastReset = s.lastReset
    ∧ (s.enterHold f h a).inReset = s.inReset ∧ (s.enterHold f h a).pending = s.pending
    ∧ (∀ k, (s.enterHold f h a).group k = s.group k) ∧ (∀ k, (s.enterHold f h a).line k = s.line k)
    ∧ (∀ k, (s.enterHold f h a).listing k = s.listing k) := by
  simp [State.enterHold]

@[simp] theorem State.enterHold_others (f : Option Holder) (h : Bool) {a k : Addr} (h_ne : k ≠ a) (s : State) :
    (s.enterHold f h a).binding k = s.binding k := by
  simp [h_ne, State.enterHold]

/-- Going to HELD with identity touches the table, its queues and memberships alone. -/
@[simp] theorem State.goHeldWith_keeps (o : Holder) (h : Bool) (a : Addr) (s : State) :
    (s.goHeldWith o h a).phase = s.phase ∧ (s.goHeldWith o h a).policy = s.policy
    ∧ (s.goHeldWith o h a).generation = s.generation ∧ (s.goHeldWith o h a).marks = s.marks
    ∧ (s.goHeldWith o h a).admission = s.admission ∧ (s.goHeldWith o h a).barred = s.barred
    ∧ (s.goHeldWith o h a).lineA = s.lineA ∧ (s.goHeldWith o h a).lineB = s.lineB
    ∧ (s.goHeldWith o h a).listingA = s.listingA ∧ (s.goHeldWith o h a).listingB = s.listingB
    ∧ (s.goHeldWith o h a).port = s.port ∧ (s.goHeldWith o h a).events = s.events
    ∧ (s.goHeldWith o h a).enables = s.enables ∧ (s.goHeldWith o h a).lastReset = s.lastReset
    ∧ (s.goHeldWith o h a).inReset = s.inReset ∧ (s.goHeldWith o h a).pending = s.pending
    ∧ (∀ k, (s.goHeldWith o h a).line k = s.line k) ∧ (∀ k, (s.goHeldWith o h a).listing k = s.listing k) := by
  unfold State.goHeldWith; split <;> simp

@[simp] theorem State.goHeldWith_others (o : Holder) (h : Bool) {a k : Addr} (h_ne : k ≠ a) (s : State) :
    (s.goHeldWith o h a).binding k = s.binding k := by
  unfold State.goHeldWith; split <;> simp [h_ne]

/-- Going to HELD anonymous touches the table, its queues and memberships alone. -/
@[simp] theorem State.goHeldAnonymous_keeps (a : Addr) (s : State) :
    (s.goHeldAnonymous a).phase = s.phase ∧ (s.goHeldAnonymous a).policy = s.policy
    ∧ (s.goHeldAnonymous a).generation = s.generation ∧ (s.goHeldAnonymous a).marks = s.marks
    ∧ (s.goHeldAnonymous a).admission = s.admission ∧ (s.goHeldAnonymous a).barred = s.barred
    ∧ (s.goHeldAnonymous a).lineA = s.lineA ∧ (s.goHeldAnonymous a).lineB = s.lineB
    ∧ (s.goHeldAnonymous a).listingA = s.listingA ∧ (s.goHeldAnonymous a).listingB = s.listingB
    ∧ (s.goHeldAnonymous a).port = s.port ∧ (s.goHeldAnonymous a).events = s.events
    ∧ (s.goHeldAnonymous a).enables = s.enables ∧ (s.goHeldAnonymous a).lastReset = s.lastReset
    ∧ (s.goHeldAnonymous a).inReset = s.inReset ∧ (s.goHeldAnonymous a).pending = s.pending
    ∧ (∀ k, (s.goHeldAnonymous a).line k = s.line k) ∧ (∀ k, (s.goHeldAnonymous a).listing k = s.listing k) := by
  unfold State.goHeldAnonymous; split <;> simp

@[simp] theorem State.goHeldAnonymous_others {a k : Addr} (h_ne : k ≠ a) (s : State) :
    (s.goHeldAnonymous a).binding k = s.binding k := by
  unfold State.goHeldAnonymous; split <;> simp [h_ne]

/-- An entry into RESERVED touches the table, its queues and memberships alone. -/
@[simp] theorem State.goReserved_keeps (r : Reservation) (a : Addr) (s : State) :
    (s.goReserved r a).phase = s.phase ∧ (s.goReserved r a).policy = s.policy
    ∧ (s.goReserved r a).generation = s.generation ∧ (s.goReserved r a).marks = s.marks
    ∧ (s.goReserved r a).admission = s.admission ∧ (s.goReserved r a).barred = s.barred
    ∧ (s.goReserved r a).lineA = s.lineA ∧ (s.goReserved r a).lineB = s.lineB
    ∧ (s.goReserved r a).listingA = s.listingA ∧ (s.goReserved r a).listingB = s.listingB
    ∧ (s.goReserved r a).port = s.port ∧ (s.goReserved r a).events = s.events
    ∧ (s.goReserved r a).enables = s.enables ∧ (s.goReserved r a).lastReset = s.lastReset
    ∧ (s.goReserved r a).inReset = s.inReset ∧ (s.goReserved r a).pending = s.pending
    ∧ (∀ k, (s.goReserved r a).line k = s.line k) ∧ (∀ k, (s.goReserved r a).listing k = s.listing k) := by
  simp [State.goReserved]

@[simp] theorem State.goReserved_others (r : Reservation) {a k : Addr} (h_ne : k ≠ a) (s : State) :
    (s.goReserved r a).binding k = s.binding k := by
  simp [h_ne, State.goReserved]

/-- Making a HELD binding anonymous touches its record and memberships alone. -/
@[simp] theorem State.makeAnonymous_keeps (a : Addr) (s : State) :
    (s.makeAnonymous a).freeQueue = s.freeQueue ∧ (s.makeAnonymous a).holdQueue = s.holdQueue
    ∧ (s.makeAnonymous a).phase = s.phase ∧ (s.makeAnonymous a).policy = s.policy
    ∧ (s.makeAnonymous a).generation = s.generation ∧ (s.makeAnonymous a).marks = s.marks
    ∧ (s.makeAnonymous a).boundary = s.boundary ∧ (s.makeAnonymous a).admission = s.admission
    ∧ (s.makeAnonymous a).barred = s.barred ∧ (s.makeAnonymous a).lineA = s.lineA
    ∧ (s.makeAnonymous a).lineB = s.lineB ∧ (s.makeAnonymous a).listingA = s.listingA
    ∧ (s.makeAnonymous a).listingB = s.listingB ∧ (s.makeAnonymous a).port = s.port
    ∧ (s.makeAnonymous a).events = s.events ∧ (s.makeAnonymous a).enables = s.enables
    ∧ (s.makeAnonymous a).lastReset = s.lastReset ∧ (s.makeAnonymous a).inReset = s.inReset
    ∧ (s.makeAnonymous a).pending = s.pending ∧ (∀ k, (s.makeAnonymous a).line k = s.line k)
    ∧ (∀ k, (s.makeAnonymous a).listing k = s.listing k) := by
  unfold State.makeAnonymous; split <;> simp

@[simp] theorem State.makeAnonymous_others {a k : Addr} (h_ne : k ≠ a) (s : State) :
    (s.makeAnonymous a).binding k = s.binding k := by
  unfold State.makeAnonymous; split <;> simp [h_ne]

/-- Giving a binding up touches the table, its queues and memberships alone. -/
@[simp] theorem State.giveUp_keeps (o : Holder) (l : Lease) (v : Bool) (h : Bool) (a : Addr) (s : State) :
    (s.giveUp o l v h a).phase = s.phase ∧ (s.giveUp o l v h a).policy = s.policy
    ∧ (s.giveUp o l v h a).generation = s.generation ∧ (s.giveUp o l v h a).marks = s.marks
    ∧ (s.giveUp o l v h a).admission = s.admission ∧ (s.giveUp o l v h a).barred = s.barred
    ∧ (s.giveUp o l v h a).lineA = s.lineA ∧ (s.giveUp o l v h a).lineB = s.lineB
    ∧ (s.giveUp o l v h a).listingA = s.listingA ∧ (s.giveUp o l v h a).listingB = s.listingB
    ∧ (s.giveUp o l v h a).port = s.port ∧ (s.giveUp o l v h a).events = s.events
    ∧ (s.giveUp o l v h a).enables = s.enables ∧ (s.giveUp o l v h a).lastReset = s.lastReset
    ∧ (s.giveUp o l v h a).inReset = s.inReset ∧ (s.giveUp o l v h a).pending = s.pending
    ∧ (∀ k, (s.giveUp o l v h a).line k = s.line k) ∧ (∀ k, (s.giveUp o l v h a).listing k = s.listing k) := by
  unfold State.giveUp; split <;> simp

@[simp] theorem State.giveUp_others (o : Holder) (l : Lease) (v : Bool) (h : Bool) {a k : Addr} (h_ne : k ≠ a) (s : State) :
    (s.giveUp o l v h a).binding k = s.binding k := by
  unfold State.giveUp; split <;> simp [h_ne]

/-- Expelling a holder touches the table, its queues and memberships alone. -/
@[simp] theorem State.expel_keeps (o : Holder) (l : Lease) (v : Bool) (a : Addr) (s : State) :
    (s.expel o l v a).phase = s.phase ∧ (s.expel o l v a).policy = s.policy
    ∧ (s.expel o l v a).generation = s.generation ∧ (s.expel o l v a).marks = s.marks
    ∧ (s.expel o l v a).admission = s.admission ∧ (s.expel o l v a).barred = s.barred
    ∧ (s.expel o l v a).lineA = s.lineA ∧ (s.expel o l v a).lineB = s.lineB
    ∧ (s.expel o l v a).listingA = s.listingA ∧ (s.expel o l v a).listingB = s.listingB
    ∧ (s.expel o l v a).port = s.port ∧ (s.expel o l v a).events = s.events ∧ (s.expel o l v a).enables = s.enables
    ∧ (s.expel o l v a).lastReset = s.lastReset ∧ (s.expel o l v a).inReset = s.inReset
    ∧ (s.expel o l v a).pending = s.pending ∧ (∀ k, (s.expel o l v a).line k = s.line k)
    ∧ (∀ k, (s.expel o l v a).listing k = s.listing k) := by
  unfold State.expel; split <;> simp

@[simp] theorem State.expel_others (o : Holder) (l : Lease) (v : Bool) {a k : Addr} (h_ne : k ≠ a) (s : State) :
    (s.expel o l v a).binding k = s.binding k := by
  unfold State.expel; split <;> simp [h_ne]

/-- An offer touches the table, its queues and the admission queue alone. -/
@[simp] theorem State.makeOffer_keeps (o : Holder) (g : Origin) (a : Addr) (s : State) :
    (s.makeOffer o g a).phase = s.phase ∧ (s.makeOffer o g a).policy = s.policy
    ∧ (s.makeOffer o g a).generation = s.generation ∧ (s.makeOffer o g a).marks = s.marks
    ∧ (s.makeOffer o g a).barred = s.barred ∧ (s.makeOffer o g a).groups = s.groups
    ∧ (s.makeOffer o g a).poolFree = s.poolFree ∧ (s.makeOffer o g a).lineA = s.lineA
    ∧ (s.makeOffer o g a).lineB = s.lineB ∧ (s.makeOffer o g a).listingA = s.listingA
    ∧ (s.makeOffer o g a).listingB = s.listingB ∧ (s.makeOffer o g a).port = s.port
    ∧ (s.makeOffer o g a).events = s.events ∧ (s.makeOffer o g a).enables = s.enables
    ∧ (s.makeOffer o g a).lastReset = s.lastReset ∧ (s.makeOffer o g a).inReset = s.inReset
    ∧ (s.makeOffer o g a).pending = s.pending ∧ (∀ k, (s.makeOffer o g a).group k = s.group k)
    ∧ (∀ k, (s.makeOffer o g a).line k = s.line k) ∧ (∀ k, (s.makeOffer o g a).listing k = s.listing k) := by
  simp [State.makeOffer]

@[simp] theorem State.makeOffer_others (o : Holder) (g : Origin) {a k : Addr} (h_ne : k ≠ a) (s : State) :
    (s.makeOffer o g a).binding k = s.binding k := by
  simp [h_ne, State.makeOffer]

/-- The return of an offer touches the table, its queues and memberships alone. -/
@[simp] theorem State.returnOffer_keeps (o : Holder) (g : Origin) (p : FreePlace) (h : Bool) (a : Addr) (s : State) :
    (s.returnOffer o g p h a).phase = s.phase ∧ (s.returnOffer o g p h a).policy = s.policy
    ∧ (s.returnOffer o g p h a).generation = s.generation ∧ (s.returnOffer o g p h a).marks = s.marks
    ∧ (s.returnOffer o g p h a).admission = s.admission ∧ (s.returnOffer o g p h a).barred = s.barred
    ∧ (s.returnOffer o g p h a).lineA = s.lineA ∧ (s.returnOffer o g p h a).lineB = s.lineB
    ∧ (s.returnOffer o g p h a).listingA = s.listingA ∧ (s.returnOffer o g p h a).listingB = s.listingB
    ∧ (s.returnOffer o g p h a).port = s.port ∧ (s.returnOffer o g p h a).events = s.events
    ∧ (s.returnOffer o g p h a).enables = s.enables ∧ (s.returnOffer o g p h a).lastReset = s.lastReset
    ∧ (s.returnOffer o g p h a).inReset = s.inReset ∧ (s.returnOffer o g p h a).pending = s.pending
    ∧ (∀ k, (s.returnOffer o g p h a).line k = s.line k) ∧ (∀ k, (s.returnOffer o g p h a).listing k = s.listing k) := by
  cases g <;> simp [State.returnOffer]

@[simp] theorem State.returnOffer_others (o : Holder) (g : Origin) (p : FreePlace) (h : Bool) {a k : Addr} (h_ne : k ≠ a) (s : State) :
    (s.returnOffer o g p h a).binding k = s.binding k := by
  cases g <;> simp [h_ne, State.returnOffer]

/-- The revocation of an offer touches the table, its queues and memberships alone. -/
@[simp] theorem State.revokeOffer_keeps (o : Holder) (g : Origin) (a : Addr) (s : State) :
    (s.revokeOffer o g a).phase = s.phase ∧ (s.revokeOffer o g a).policy = s.policy
    ∧ (s.revokeOffer o g a).generation = s.generation ∧ (s.revokeOffer o g a).marks = s.marks
    ∧ (s.revokeOffer o g a).admission = s.admission ∧ (s.revokeOffer o g a).barred = s.barred
    ∧ (s.revokeOffer o g a).lineA = s.lineA ∧ (s.revokeOffer o g a).lineB = s.lineB
    ∧ (s.revokeOffer o g a).listingA = s.listingA ∧ (s.revokeOffer o g a).listingB = s.listingB
    ∧ (s.revokeOffer o g a).port = s.port ∧ (s.revokeOffer o g a).events = s.events
    ∧ (s.revokeOffer o g a).enables = s.enables ∧ (s.revokeOffer o g a).lastReset = s.lastReset
    ∧ (s.revokeOffer o g a).inReset = s.inReset ∧ (s.revokeOffer o g a).pending = s.pending
    ∧ (∀ k, (s.revokeOffer o g a).line k = s.line k) ∧ (∀ k, (s.revokeOffer o g a).listing k = s.listing k) := by
  cases g <;> simp [State.revokeOffer]

@[simp] theorem State.revokeOffer_others (o : Holder) (g : Origin) {a k : Addr} (h_ne : k ≠ a) (s : State) :
    (s.revokeOffer o g a).binding k = s.binding k := by
  cases g <;> simp [h_ne, State.revokeOffer]

/-- An entry into BOUND touches the table and its queues alone. -/
@[simp] theorem State.enterBound_keeps (o : Holder) (l : Lease) (v : Bool) (a : Addr) (s : State) :
    (s.enterBound o l v a).phase = s.phase ∧ (s.enterBound o l v a).policy = s.policy
    ∧ (s.enterBound o l v a).generation = s.generation ∧ (s.enterBound o l v a).marks = s.marks
    ∧ (s.enterBound o l v a).admission = s.admission ∧ (s.enterBound o l v a).barred = s.barred
    ∧ (s.enterBound o l v a).groups = s.groups ∧ (s.enterBound o l v a).poolFree = s.poolFree
    ∧ (s.enterBound o l v a).lineA = s.lineA ∧ (s.enterBound o l v a).lineB = s.lineB
    ∧ (s.enterBound o l v a).listingA = s.listingA ∧ (s.enterBound o l v a).listingB = s.listingB
    ∧ (s.enterBound o l v a).port = s.port ∧ (s.enterBound o l v a).events = s.events
    ∧ (s.enterBound o l v a).enables = s.enables ∧ (s.enterBound o l v a).lastReset = s.lastReset
    ∧ (s.enterBound o l v a).inReset = s.inReset ∧ (s.enterBound o l v a).pending = s.pending
    ∧ (∀ k, (s.enterBound o l v a).group k = s.group k) ∧ (∀ k, (s.enterBound o l v a).line k = s.line k)
    ∧ (∀ k, (s.enterBound o l v a).listing k = s.listing k) := by
  simp [State.enterBound]

@[simp] theorem State.enterBound_others (o : Holder) (l : Lease) (v : Bool) {a k : Addr} (h_ne : k ≠ a) (s : State) :
    (s.enterBound o l v a).binding k = s.binding k := by
  simp [h_ne, State.enterBound]

/-- A contest settled for the incumbent touches the table and its queues alone. -/
@[simp] theorem State.keepIncumbent_keeps (o : Holder) (l : Lease) (v : Bool) (a : Addr) (s : State) :
    (s.keepIncumbent o l v a).phase = s.phase ∧ (s.keepIncumbent o l v a).policy = s.policy
    ∧ (s.keepIncumbent o l v a).generation = s.generation ∧ (s.keepIncumbent o l v a).marks = s.marks
    ∧ (s.keepIncumbent o l v a).admission = s.admission ∧ (s.keepIncumbent o l v a).barred = s.barred
    ∧ (s.keepIncumbent o l v a).groups = s.groups ∧ (s.keepIncumbent o l v a).poolFree = s.poolFree
    ∧ (s.keepIncumbent o l v a).lineA = s.lineA ∧ (s.keepIncumbent o l v a).lineB = s.lineB
    ∧ (s.keepIncumbent o l v a).listingA = s.listingA ∧ (s.keepIncumbent o l v a).listingB = s.listingB
    ∧ (s.keepIncumbent o l v a).port = s.port ∧ (s.keepIncumbent o l v a).events = s.events
    ∧ (s.keepIncumbent o l v a).enables = s.enables ∧ (s.keepIncumbent o l v a).lastReset = s.lastReset
    ∧ (s.keepIncumbent o l v a).inReset = s.inReset ∧ (s.keepIncumbent o l v a).pending = s.pending
    ∧ (∀ k, (s.keepIncumbent o l v a).group k = s.group k) ∧ (∀ k, (s.keepIncumbent o l v a).line k = s.line k)
    ∧ (∀ k, (s.keepIncumbent o l v a).listing k = s.listing k) := by
  simp [State.keepIncumbent]

@[simp] theorem State.keepIncumbent_others (o : Holder) (l : Lease) (v : Bool) {a k : Addr} (h_ne : k ≠ a) (s : State) :
    (s.keepIncumbent o l v a).binding k = s.binding k := by
  simp [h_ne, State.keepIncumbent]

/-- A contest settled for the challenger touches the table, its queues and memberships alone. -/
@[simp] theorem State.keepChallenger_keeps (c : Challenger) (l : Lease) (v : Bool) (a : Addr) (s : State) :
    (s.keepChallenger c l v a).phase = s.phase ∧ (s.keepChallenger c l v a).policy = s.policy
    ∧ (s.keepChallenger c l v a).generation = s.generation ∧ (s.keepChallenger c l v a).marks = s.marks
    ∧ (s.keepChallenger c l v a).admission = s.admission ∧ (s.keepChallenger c l v a).barred = s.barred
    ∧ (s.keepChallenger c l v a).lineA = s.lineA ∧ (s.keepChallenger c l v a).lineB = s.lineB
    ∧ (s.keepChallenger c l v a).listingA = s.listingA ∧ (s.keepChallenger c l v a).listingB = s.listingB
    ∧ (s.keepChallenger c l v a).port = s.port ∧ (s.keepChallenger c l v a).events = s.events
    ∧ (s.keepChallenger c l v a).enables = s.enables ∧ (s.keepChallenger c l v a).lastReset = s.lastReset
    ∧ (s.keepChallenger c l v a).inReset = s.inReset ∧ (s.keepChallenger c l v a).pending = s.pending
    ∧ (∀ k, (s.keepChallenger c l v a).line k = s.line k)
    ∧ (∀ k, (s.keepChallenger c l v a).listing k = s.listing k) := by
  simp [State.keepChallenger]

@[simp] theorem State.keepChallenger_others (c : Challenger) (l : Lease) (v : Bool) {a k : Addr} (h_ne : k ≠ a) (s : State) :
    (s.keepChallenger c l v a).binding k = s.binding k := by
  simp [h_ne, State.keepChallenger]

/-- The resumption of the incumbent touches its record alone. -/
@[simp] theorem State.resumeIncumbent_keeps (o : Holder) (l : Lease) (v : Bool) (r : Option Replay) (a : Addr) (s : State) :
    (s.resumeIncumbent o l v r a).freeQueue = s.freeQueue ∧ (s.resumeIncumbent o l v r a).holdQueue = s.holdQueue
    ∧ (s.resumeIncumbent o l v r a).phase = s.phase ∧ (s.resumeIncumbent o l v r a).policy = s.policy
    ∧ (s.resumeIncumbent o l v r a).generation = s.generation ∧ (s.resumeIncumbent o l v r a).marks = s.marks
    ∧ (s.resumeIncumbent o l v r a).boundary = s.boundary ∧ (s.resumeIncumbent o l v r a).admission = s.admission
    ∧ (s.resumeIncumbent o l v r a).barred = s.barred ∧ (s.resumeIncumbent o l v r a).groups = s.groups
    ∧ (s.resumeIncumbent o l v r a).poolFree = s.poolFree ∧ (s.resumeIncumbent o l v r a).lineA = s.lineA
    ∧ (s.resumeIncumbent o l v r a).lineB = s.lineB ∧ (s.resumeIncumbent o l v r a).listingA = s.listingA
    ∧ (s.resumeIncumbent o l v r a).listingB = s.listingB ∧ (s.resumeIncumbent o l v r a).port = s.port
    ∧ (s.resumeIncumbent o l v r a).events = s.events ∧ (s.resumeIncumbent o l v r a).enables = s.enables
    ∧ (s.resumeIncumbent o l v r a).lastReset = s.lastReset ∧ (s.resumeIncumbent o l v r a).inReset = s.inReset
    ∧ (s.resumeIncumbent o l v r a).pending = s.pending ∧ (∀ k, (s.resumeIncumbent o l v r a).group k = s.group k)
    ∧ (∀ k, (s.resumeIncumbent o l v r a).line k = s.line k)
    ∧ (∀ k, (s.resumeIncumbent o l v r a).listing k = s.listing k) := by
  simp [State.resumeIncumbent]

@[simp] theorem State.resumeIncumbent_others (o : Holder) (l : Lease) (v : Bool) (r : Option Replay) {a k : Addr} (h_ne : k ≠ a) (s : State) :
    (s.resumeIncumbent o l v r a).binding k = s.binding k := by
  simp [h_ne, State.resumeIncumbent]

/-- An offer to a newcomer touches the table, its queues, memberships and the admission queue alone. -/
@[simp] theorem State.offerNewcomer_keeps (o : Holder) (a : Addr) (s : State) :
    (s.offerNewcomer o a).phase = s.phase ∧ (s.offerNewcomer o a).policy = s.policy
    ∧ (s.offerNewcomer o a).generation = s.generation ∧ (s.offerNewcomer o a).marks = s.marks
    ∧ (s.offerNewcomer o a).barred = s.barred ∧ (s.offerNewcomer o a).lineA = s.lineA
    ∧ (s.offerNewcomer o a).lineB = s.lineB ∧ (s.offerNewcomer o a).listingA = s.listingA
    ∧ (s.offerNewcomer o a).listingB = s.listingB ∧ (s.offerNewcomer o a).port = s.port
    ∧ (s.offerNewcomer o a).events = s.events ∧ (s.offerNewcomer o a).enables = s.enables
    ∧ (s.offerNewcomer o a).lastReset = s.lastReset ∧ (s.offerNewcomer o a).inReset = s.inReset
    ∧ (s.offerNewcomer o a).pending = s.pending ∧ (∀ k, (s.offerNewcomer o a).line k = s.line k)
    ∧ (∀ k, (s.offerNewcomer o a).listing k = s.listing k) := by
  simp [State.offerNewcomer]

@[simp] theorem State.offerNewcomer_others (o : Holder) {a k : Addr} (h_ne : k ≠ a) (s : State) :
    (s.offerNewcomer o a).binding k = s.binding k := by
  simp [h_ne, State.offerNewcomer]

/-- Caching a reply touches one record alone. -/
@[simp] theorem State.cacheReply_keeps (a : Addr) (r : Replay) (s : State) :
    (s.cacheReply a r).freeQueue = s.freeQueue ∧ (s.cacheReply a r).holdQueue = s.holdQueue
    ∧ (s.cacheReply a r).phase = s.phase ∧ (s.cacheReply a r).policy = s.policy
    ∧ (s.cacheReply a r).generation = s.generation ∧ (s.cacheReply a r).marks = s.marks
    ∧ (s.cacheReply a r).boundary = s.boundary ∧ (s.cacheReply a r).admission = s.admission
    ∧ (s.cacheReply a r).barred = s.barred ∧ (s.cacheReply a r).groups = s.groups
    ∧ (s.cacheReply a r).poolFree = s.poolFree ∧ (s.cacheReply a r).lineA = s.lineA
    ∧ (s.cacheReply a r).lineB = s.lineB ∧ (s.cacheReply a r).listingA = s.listingA
    ∧ (s.cacheReply a r).listingB = s.listingB ∧ (s.cacheReply a r).port = s.port
    ∧ (s.cacheReply a r).events = s.events ∧ (s.cacheReply a r).enables = s.enables
    ∧ (s.cacheReply a r).lastReset = s.lastReset ∧ (s.cacheReply a r).inReset = s.inReset
    ∧ (s.cacheReply a r).pending = s.pending ∧ (∀ k, (s.cacheReply a r).group k = s.group k)
    ∧ (∀ k, (s.cacheReply a r).line k = s.line k) ∧ (∀ k, (s.cacheReply a r).listing k = s.listing k) := by
  unfold State.cacheReply; split <;> simp

@[simp] theorem State.cacheReply_others {a k : Addr} (h_ne : k ≠ a) (r : Replay) (s : State) :
    (s.cacheReply a r).binding k = s.binding k := by
  unfold State.cacheReply; split <;> simp [h_ne]

/-- Appending a member touches one group and the pool alone (R142, R143). -/
@[simp] theorem State.appendMember_keeps (g : GroupNo) (n : Nat) (p : JoinPolicy) (m : List Addr) (a : Addr) (s : State) :
    (s.appendMember g n p m a).table = s.table ∧ (s.appendMember g n p m a).freeQueue = s.freeQueue
    ∧ (s.appendMember g n p m a).holdQueue = s.holdQueue ∧ (s.appendMember g n p m a).phase = s.phase
    ∧ (s.appendMember g n p m a).policy = s.policy ∧ (s.appendMember g n p m a).generation = s.generation
    ∧ (s.appendMember g n p m a).marks = s.marks ∧ (s.appendMember g n p m a).boundary = s.boundary
    ∧ (s.appendMember g n p m a).admission = s.admission ∧ (s.appendMember g n p m a).barred = s.barred
    ∧ (s.appendMember g n p m a).lineA = s.lineA ∧ (s.appendMember g n p m a).lineB = s.lineB
    ∧ (s.appendMember g n p m a).listingA = s.listingA ∧ (s.appendMember g n p m a).listingB = s.listingB
    ∧ (s.appendMember g n p m a).port = s.port ∧ (s.appendMember g n p m a).events = s.events
    ∧ (s.appendMember g n p m a).enables = s.enables ∧ (s.appendMember g n p m a).lastReset = s.lastReset
    ∧ (s.appendMember g n p m a).inReset = s.inReset ∧ (s.appendMember g n p m a).pending = s.pending
    ∧ (∀ k, (s.appendMember g n p m a).binding k = s.binding k)
    ∧ (∀ k, (s.appendMember g n p m a).line k = s.line k)
    ∧ (∀ k, (s.appendMember g n p m a).listing k = s.listing k) := by
  and_intros <;> first | rfl | (intro k; cases k <;> rfl)

/-- Removing a member touches one group and the pool alone (R143). -/
@[simp] theorem State.removeMember_keeps (g : GroupNo) (n : Nat) (p : JoinPolicy) (m : List Addr) (a : Addr) (s : State) :
    (s.removeMember g n p m a).table = s.table ∧ (s.removeMember g n p m a).freeQueue = s.freeQueue
    ∧ (s.removeMember g n p m a).holdQueue = s.holdQueue ∧ (s.removeMember g n p m a).phase = s.phase
    ∧ (s.removeMember g n p m a).policy = s.policy ∧ (s.removeMember g n p m a).generation = s.generation
    ∧ (s.removeMember g n p m a).marks = s.marks ∧ (s.removeMember g n p m a).boundary = s.boundary
    ∧ (s.removeMember g n p m a).admission = s.admission ∧ (s.removeMember g n p m a).barred = s.barred
    ∧ (s.removeMember g n p m a).lineA = s.lineA ∧ (s.removeMember g n p m a).lineB = s.lineB
    ∧ (s.removeMember g n p m a).listingA = s.listingA ∧ (s.removeMember g n p m a).listingB = s.listingB
    ∧ (s.removeMember g n p m a).port = s.port ∧ (s.removeMember g n p m a).events = s.events
    ∧ (s.removeMember g n p m a).enables = s.enables ∧ (s.removeMember g n p m a).lastReset = s.lastReset
    ∧ (s.removeMember g n p m a).inReset = s.inReset ∧ (s.removeMember g n p m a).pending = s.pending
    ∧ (∀ k, (s.removeMember g n p m a).binding k = s.binding k)
    ∧ (∀ k, (s.removeMember g n p m a).line k = s.line k)
    ∧ (∀ k, (s.removeMember g n p m a).listing k = s.listing k) := by
  and_intros <;> first | rfl | (intro k; cases k <;> rfl)

/-- The group and the pool after a member joined or left. -/
@[simp] theorem State.group_member (g : GroupNo) (n : Nat) (p : JoinPolicy) (m : List Addr) (a : Addr) (s : State) :
    (s.appendMember g n p m a).group g = .opened n p (m ++ [a])
      ∧ (s.appendMember g n p m a).poolFree = s.poolFree - 1
      ∧ (s.removeMember g n p m a).group g = .opened n p (dropAddr a m)
      ∧ (s.removeMember g n p m a).poolFree = s.poolFree + m.count a := by
  refine ⟨?_, rfl, ?_, rfl⟩
  · exact State.group_setGroup_self g _ s
  · exact State.group_setGroup_self g _ s

@[simp] theorem State.group_member_ne (g : GroupNo) (n : Nat) (p : JoinPolicy) (m : List Addr) (a : Addr) {k : GroupNo}
    (h : k ≠ g) (s : State) :
    (s.appendMember g n p m a).group k = s.group k ∧ (s.removeMember g n p m a).group k = s.group k := by
  constructor
  · exact State.group_setGroup_ne h _ s
  · exact State.group_setGroup_ne h _ s

/-! ### The record each writes -/

/-- FREE, with nothing else in the record (R7). -/
@[simp] theorem State.goFree_binding (p : FreePlace) (a : Addr) (s : State) : (s.goFree p a).binding a = .free := by
  simp [State.goFree]

/-- HELD, with the hold period as it stands (R8). -/
@[simp] theorem State.enterHold_binding (f : Option Holder) (h : Bool) (a : Addr) (s : State) :
    (s.enterHold f h a).binding a = .held f (Countdown.fresh s.policy.holdPeriod) := by
  simp [State.enterHold]

/-- HELD with identity, or FREE when the hold period is 0 (R8). -/
theorem State.goHeldWith_binding (o : Holder) (h : Bool) (a : Addr) (s : State) :
    (s.goHeldWith o h a).binding a =
      if s.policy.holdPeriod = 0 then .free else .held (some o) (Countdown.fresh s.policy.holdPeriod) := by
  unfold State.goHeldWith; split <;> simp

/-- HELD anonymous, or FREE when the hold period is 0 (R8). -/
theorem State.goHeldAnonymous_binding (a : Addr) (s : State) :
    (s.goHeldAnonymous a).binding a =
      if s.policy.holdPeriod = 0 then .free else .held none (Countdown.fresh s.policy.holdPeriod) := by
  unfold State.goHeldAnonymous; split <;> simp

/-- RESERVED (R13). -/
@[simp] theorem State.goReserved_binding (r : Reservation) (a : Addr) (s : State) :
    (s.goReserved r a).binding a = .reserved r := by
  simp [State.goReserved]

/-- HELD anonymous with the hold remaining it had (R9); any other record stays. -/
theorem State.makeAnonymous_binding (a : Addr) (s : State) :
    (s.makeAnonymous a).binding a =
      match s.binding a with | .held (some _) r => .held none r | b => b := by
  unfold State.makeAnonymous
  split <;> simp_all

/-- OFFERED with the offer window as it stands (R10). -/
@[simp] theorem State.makeOffer_binding (o : Holder) (g : Origin) (a : Addr) (s : State) :
    (s.makeOffer o g a).binding a = .offered o g (Countdown.fresh s.policy.offerWindow) := by
  simp [State.makeOffer]

/-- BOUND without sequence state (R12). -/
@[simp] theorem State.enterBound_binding (o : Holder) (l : Lease) (v : Bool) (a : Addr) (s : State) :
    (s.enterBound o l v a).binding a = .bound o l v none := by
  simp [State.enterBound]

@[simp] theorem State.keepIncumbent_binding (o : Holder) (l : Lease) (v : Bool) (a : Addr) (s : State) :
    (s.keepIncumbent o l v a).binding a = .bound o (s.freshLease v l.kind) v none := by
  simp [State.keepIncumbent]

@[simp] theorem State.keepChallenger_binding (c : Challenger) (l : Lease) (v : Bool) (a : Addr) (s : State) :
    (s.keepChallenger c l v a).binding a = .bound c.asHolder (s.freshLease v l.kind) v none := by
  simp [State.keepChallenger]

@[simp] theorem State.offerNewcomer_binding (o : Holder) (a : Addr) (s : State) :
    (s.offerNewcomer o a).binding a = .offered o .free (Countdown.fresh s.policy.offerWindow) := by
  simp [State.offerNewcomer]

/-- What caching writes into the record of a bound source (R43, R44). -/
theorem State.cacheReply_binding (a : Addr) (r : Replay) (s : State) :
    (s.cacheReply a r).binding a =
      match s.binding a with
      | .bound h l v _ => .bound h l v (some r)
      | .contested h l v _ c k => .contested h l v (some r) c k
      | b => b := by
  unfold State.cacheReply
  split <;> simp_all

/-- Caching a reply leaves a binding bound or not as it was. -/
@[simp] theorem State.isBound_cacheReply (a k : Addr) (r : Replay) (s : State) :
    ((s.cacheReply a r).binding k).isBound = (s.binding k).isBound := by
  by_cases h : k = a
  · subst h
    rw [State.cacheReply_binding]
    split <;> simp_all [Binding.isBound]
  · simp [h]

/-- Caching a reply is no record change (R18). -/
@[simp] theorem State.record_cacheReply (a k : Addr) (r : Replay) (s : State) :
    ((s.cacheReply a r).binding k).record = (s.binding k).record := by
  by_cases h : k = a
  · subst h
    rw [State.cacheReply_binding]
    split <;> simp_all [Binding.record]
  · simp [h]

end Sys2Proof.Machine
end

