-- ==== Sys2Proof/Laws/Frames.lean ====
section
/-! SUPPORT. The hand-over of frames, the listings and the end of an application, one law each of what it leaves as it
was. -/

namespace Sys2Proof.Machine

/-- Writing the controller that stands there already changes nothing. -/
theorem State.setLine_self {seg : Segment} {s : State} {c : Controller} (h : c = s.line seg) : s.setLine seg c = s := by
  subst h; simp

/-- Disowning copies touches the queue of its segment alone. -/
@[simp] theorem State.disownCopies_keeps (seg : Segment) (s : State) :
    (s.disownCopies seg).table = s.table ∧ (s.disownCopies seg).freeQueue = s.freeQueue
    ∧ (s.disownCopies seg).holdQueue = s.holdQueue ∧ (s.disownCopies seg).phase = s.phase
    ∧ (s.disownCopies seg).policy = s.policy ∧ (s.disownCopies seg).generation = s.generation
    ∧ (s.disownCopies seg).marks = s.marks ∧ (s.disownCopies seg).boundary = s.boundary
    ∧ (s.disownCopies seg).admission = s.admission ∧ (s.disownCopies seg).barred = s.barred
    ∧ (s.disownCopies seg).groups = s.groups ∧ (s.disownCopies seg).poolFree = s.poolFree
    ∧ (s.disownCopies seg).listingA = s.listingA ∧ (s.disownCopies seg).listingB = s.listingB
    ∧ (s.disownCopies seg).port = s.port ∧ (s.disownCopies seg).events = s.events
    ∧ (s.disownCopies seg).enables = s.enables ∧ (s.disownCopies seg).lastReset = s.lastReset
    ∧ (s.disownCopies seg).inReset = s.inReset ∧ (s.disownCopies seg).pending = s.pending
    ∧ (∀ k, (s.disownCopies seg).binding k = s.binding k) ∧ (∀ k, (s.disownCopies seg).group k = s.group k)
    ∧ (∀ k, (s.disownCopies seg).listing k = s.listing k) := by
  cases seg <;> simp [State.disownCopies]

/-- A reply handed over touches its controller and NOTICE-DROPPED alone (R50). -/
@[simp] theorem State.handReply_keeps (seg : Segment) (f : Frame) (s : State) :
    (s.handReply seg f).table = s.table ∧ (s.handReply seg f).freeQueue = s.freeQueue
    ∧ (s.handReply seg f).holdQueue = s.holdQueue ∧ (s.handReply seg f).phase = s.phase
    ∧ (s.handReply seg f).policy = s.policy ∧ (s.handReply seg f).generation = s.generation
    ∧ (s.handReply seg f).marks = s.marks ∧ (s.handReply seg f).boundary = s.boundary
    ∧ (s.handReply seg f).admission = s.admission ∧ (s.handReply seg f).barred = s.barred
    ∧ (s.handReply seg f).groups = s.groups ∧ (s.handReply seg f).poolFree = s.poolFree
    ∧ (s.handReply seg f).listingA = s.listingA ∧ (s.handReply seg f).listingB = s.listingB
    ∧ (s.handReply seg f).port = s.port ∧ (s.handReply seg f).enables = s.enables
    ∧ (s.handReply seg f).lastReset = s.lastReset ∧ (s.handReply seg f).inReset = s.inReset
    ∧ (s.handReply seg f).pending = s.pending ∧ (∀ k, (s.handReply seg f).binding k = s.binding k)
    ∧ (∀ k, (s.handReply seg f).group k = s.group k) ∧ (∀ k, (s.handReply seg f).listing k = s.listing k) := by
  unfold State.handReply; dsimp only; (repeat' split) <;> simp

/-- A notice handed over touches its controller and NOTICE-DROPPED alone (R51). -/
@[simp] theorem State.handNotice_keeps (seg : Segment) (f : Frame) (s : State) :
    (s.handNotice seg f).table = s.table ∧ (s.handNotice seg f).freeQueue = s.freeQueue
    ∧ (s.handNotice seg f).holdQueue = s.holdQueue ∧ (s.handNotice seg f).phase = s.phase
    ∧ (s.handNotice seg f).policy = s.policy ∧ (s.handNotice seg f).generation = s.generation
    ∧ (s.handNotice seg f).marks = s.marks ∧ (s.handNotice seg f).boundary = s.boundary
    ∧ (s.handNotice seg f).admission = s.admission ∧ (s.handNotice seg f).barred = s.barred
    ∧ (s.handNotice seg f).groups = s.groups ∧ (s.handNotice seg f).poolFree = s.poolFree
    ∧ (s.handNotice seg f).listingA = s.listingA ∧ (s.handNotice seg f).listingB = s.listingB
    ∧ (s.handNotice seg f).port = s.port ∧ (s.handNotice seg f).enables = s.enables
    ∧ (s.handNotice seg f).lastReset = s.lastReset ∧ (s.handNotice seg f).inReset = s.inReset
    ∧ (s.handNotice seg f).pending = s.pending ∧ (∀ k, (s.handNotice seg f).binding k = s.binding k)
    ∧ (∀ k, (s.handNotice seg f).group k = s.group k) ∧ (∀ k, (s.handNotice seg f).listing k = s.listing k) := by
  unfold State.handNotice; dsimp only; (repeat' split) <;> simp

/-- A broadcast touches the controllers and NOTICE-DROPPED alone (R49). -/
@[simp] theorem State.broadcast_keeps (f : Frame) (s : State) :
    (s.broadcast f).table = s.table ∧ (s.broadcast f).freeQueue = s.freeQueue
    ∧ (s.broadcast f).holdQueue = s.holdQueue ∧ (s.broadcast f).phase = s.phase ∧ (s.broadcast f).policy = s.policy
    ∧ (s.broadcast f).generation = s.generation ∧ (s.broadcast f).marks = s.marks
    ∧ (s.broadcast f).boundary = s.boundary ∧ (s.broadcast f).admission = s.admission
    ∧ (s.broadcast f).barred = s.barred ∧ (s.broadcast f).groups = s.groups ∧ (s.broadcast f).poolFree = s.poolFree
    ∧ (s.broadcast f).listingA = s.listingA ∧ (s.broadcast f).listingB = s.listingB ∧ (s.broadcast f).port = s.port
    ∧ (s.broadcast f).enables = s.enables ∧ (s.broadcast f).lastReset = s.lastReset
    ∧ (s.broadcast f).inReset = s.inReset ∧ (s.broadcast f).pending = s.pending
    ∧ (∀ k, (s.broadcast f).binding k = s.binding k) ∧ (∀ k, (s.broadcast f).group k = s.group k)
    ∧ (∀ k, (s.broadcast f).listing k = s.listing k) := by
  unfold State.broadcast; dsimp only; (repeat' split) <;> simp

/-- A VACATE touches a controller and NOTICE-DROPPED alone (R48). -/
@[simp] theorem State.sendVacate_keeps (a : Addr) (x : Identity) (seg : Segment) (r : VacateReason) (s : State) :
    (s.sendVacate a x seg r).table = s.table ∧ (s.sendVacate a x seg r).freeQueue = s.freeQueue
    ∧ (s.sendVacate a x seg r).holdQueue = s.holdQueue ∧ (s.sendVacate a x seg r).phase = s.phase
    ∧ (s.sendVacate a x seg r).policy = s.policy ∧ (s.sendVacate a x seg r).generation = s.generation
    ∧ (s.sendVacate a x seg r).marks = s.marks ∧ (s.sendVacate a x seg r).boundary = s.boundary
    ∧ (s.sendVacate a x seg r).admission = s.admission ∧ (s.sendVacate a x seg r).barred = s.barred
    ∧ (s.sendVacate a x seg r).groups = s.groups ∧ (s.sendVacate a x seg r).poolFree = s.poolFree
    ∧ (s.sendVacate a x seg r).listingA = s.listingA ∧ (s.sendVacate a x seg r).listingB = s.listingB
    ∧ (s.sendVacate a x seg r).port = s.port ∧ (s.sendVacate a x seg r).enables = s.enables
    ∧ (s.sendVacate a x seg r).lastReset = s.lastReset ∧ (s.sendVacate a x seg r).inReset = s.inReset
    ∧ (s.sendVacate a x seg r).pending = s.pending ∧ (∀ k, (s.sendVacate a x seg r).binding k = s.binding k)
    ∧ (∀ k, (s.sendVacate a x seg r).group k = s.group k) ∧ (∀ k, (s.sendVacate a x seg r).listing k = s.listing k) := by
  simp [State.sendVacate]

/-- The end of a listing touches its unit and the marks of its queued copies alone (R137). -/
@[simp] theorem State.endListing_keeps (seg : Segment) (s : State) :
    (s.endListing seg).table = s.table ∧ (s.endListing seg).freeQueue = s.freeQueue
    ∧ (s.endListing seg).holdQueue = s.holdQueue ∧ (s.endListing seg).phase = s.phase
    ∧ (s.endListing seg).policy = s.policy ∧ (s.endListing seg).generation = s.generation
    ∧ (s.endListing seg).marks = s.marks ∧ (s.endListing seg).boundary = s.boundary
    ∧ (s.endListing seg).admission = s.admission ∧ (s.endListing seg).barred = s.barred
    ∧ (s.endListing seg).groups = s.groups ∧ (s.endListing seg).poolFree = s.poolFree
    ∧ (s.endListing seg).port = s.port ∧ (s.endListing seg).events = s.events
    ∧ (s.endListing seg).enables = s.enables ∧ (s.endListing seg).lastReset = s.lastReset
    ∧ (s.endListing seg).inReset = s.inReset ∧ (s.endListing seg).pending = s.pending
    ∧ (∀ k, (s.endListing seg).binding k = s.binding k) ∧ (∀ k, (s.endListing seg).group k = s.group k) := by
  simp [State.endListing]

/-- A send end touches the listing alone (R133). -/
@[simp] theorem State.sendEnd_keeps (seg : Segment) (s : State) :
    (s.sendEnd seg).table = s.table ∧ (s.sendEnd seg).freeQueue = s.freeQueue
    ∧ (s.sendEnd seg).holdQueue = s.holdQueue ∧ (s.sendEnd seg).phase = s.phase ∧ (s.sendEnd seg).policy = s.policy
    ∧ (s.sendEnd seg).generation = s.generation ∧ (s.sendEnd seg).marks = s.marks
    ∧ (s.sendEnd seg).boundary = s.boundary ∧ (s.sendEnd seg).admission = s.admission
    ∧ (s.sendEnd seg).barred = s.barred ∧ (s.sendEnd seg).groups = s.groups ∧ (s.sendEnd seg).poolFree = s.poolFree
    ∧ (s.sendEnd seg).lineA = s.lineA ∧ (s.sendEnd seg).lineB = s.lineB ∧ (s.sendEnd seg).port = s.port
    ∧ (s.sendEnd seg).events = s.events ∧ (s.sendEnd seg).enables = s.enables
    ∧ (s.sendEnd seg).lastReset = s.lastReset ∧ (s.sendEnd seg).inReset = s.inReset
    ∧ (s.sendEnd seg).pending = s.pending ∧ (∀ k, (s.sendEnd seg).binding k = s.binding k)
    ∧ (∀ k, (s.sendEnd seg).group k = s.group k) ∧ (∀ k, (s.sendEnd seg).line k = s.line k) := by
  unfold State.sendEnd; split <;> simp

/-- A send touches the listing and its controller alone (R133). -/
@[simp] theorem State.sendListing_keeps (seg : Segment) (s : State) :
    (s.sendListing seg).table = s.table ∧ (s.sendListing seg).freeQueue = s.freeQueue
    ∧ (s.sendListing seg).holdQueue = s.holdQueue ∧ (s.sendListing seg).phase = s.phase
    ∧ (s.sendListing seg).policy = s.policy ∧ (s.sendListing seg).generation = s.generation
    ∧ (s.sendListing seg).marks = s.marks ∧ (s.sendListing seg).boundary = s.boundary
    ∧ (s.sendListing seg).admission = s.admission ∧ (s.sendListing seg).barred = s.barred
    ∧ (s.sendListing seg).groups = s.groups ∧ (s.sendListing seg).poolFree = s.poolFree
    ∧ (s.sendListing seg).port = s.port ∧ (s.sendListing seg).events = s.events
    ∧ (s.sendListing seg).enables = s.enables ∧ (s.sendListing seg).lastReset = s.lastReset
    ∧ (s.sendListing seg).inReset = s.inReset ∧ (s.sendListing seg).pending = s.pending
    ∧ (∀ k, (s.sendListing seg).binding k = s.binding k) ∧ (∀ k, (s.sendListing seg).group k = s.group k) := by
  unfold State.sendListing; dsimp only; (repeat' split) <;> simp

/-- The start of a listing touches the listing and its controller alone (R131). -/
@[simp] theorem State.startListing_keeps (seg : Segment) (a : Addr) (n : BitVec 4) (f : Byte) (p : Nat) (s : State) :
    (s.startListing seg a n f p).table = s.table ∧ (s.startListing seg a n f p).freeQueue = s.freeQueue
    ∧ (s.startListing seg a n f p).holdQueue = s.holdQueue ∧ (s.startListing seg a n f p).phase = s.phase
    ∧ (s.startListing seg a n f p).policy = s.policy ∧ (s.startListing seg a n f p).generation = s.generation
    ∧ (s.startListing seg a n f p).marks = s.marks ∧ (s.startListing seg a n f p).boundary = s.boundary
    ∧ (s.startListing seg a n f p).admission = s.admission ∧ (s.startListing seg a n f p).barred = s.barred
    ∧ (s.startListing seg a n f p).groups = s.groups ∧ (s.startListing seg a n f p).poolFree = s.poolFree
    ∧ (s.startListing seg a n f p).port = s.port ∧ (s.startListing seg a n f p).events = s.events
    ∧ (s.startListing seg a n f p).enables = s.enables ∧ (s.startListing seg a n f p).lastReset = s.lastReset
    ∧ (s.startListing seg a n f p).inReset = s.inReset ∧ (s.startListing seg a n f p).pending = s.pending
    ∧ (∀ k, (s.startListing seg a n f p).binding k = s.binding k)
    ∧ (∀ k, (s.startListing seg a n f p).group k = s.group k) := by
  simp [State.startListing]

/-- The next frame of a listing touches the listing and its controller alone (R134). -/
@[simp] theorem State.advanceListing_keeps (seg : Segment) (l : Listing) (s : State) :
    (s.advanceListing seg l).table = s.table ∧ (s.advanceListing seg l).freeQueue = s.freeQueue
    ∧ (s.advanceListing seg l).holdQueue = s.holdQueue ∧ (s.advanceListing seg l).phase = s.phase
    ∧ (s.advanceListing seg l).policy = s.policy ∧ (s.advanceListing seg l).generation = s.generation
    ∧ (s.advanceListing seg l).marks = s.marks ∧ (s.advanceListing seg l).boundary = s.boundary
    ∧ (s.advanceListing seg l).admission = s.admission ∧ (s.advanceListing seg l).barred = s.barred
    ∧ (s.advanceListing seg l).groups = s.groups ∧ (s.advanceListing seg l).poolFree = s.poolFree
    ∧ (s.advanceListing seg l).port = s.port ∧ (s.advanceListing seg l).events = s.events
    ∧ (s.advanceListing seg l).enables = s.enables ∧ (s.advanceListing seg l).lastReset = s.lastReset
    ∧ (s.advanceListing seg l).inReset = s.inReset ∧ (s.advanceListing seg l).pending = s.pending
    ∧ (∀ k, (s.advanceListing seg l).binding k = s.binding k) ∧ (∀ k, (s.advanceListing seg l).group k = s.group k) := by
  simp [State.advanceListing]

/-- An abandonment touches the listing and the marks of its queued copies alone (R137). -/
@[simp] theorem State.abandonLeft_keeps (b : State) (seg : Segment) (s : State) :
    (s.abandonLeft b seg).table = s.table ∧ (s.abandonLeft b seg).freeQueue = s.freeQueue
    ∧ (s.abandonLeft b seg).holdQueue = s.holdQueue ∧ (s.abandonLeft b seg).phase = s.phase
    ∧ (s.abandonLeft b seg).policy = s.policy ∧ (s.abandonLeft b seg).generation = s.generation
    ∧ (s.abandonLeft b seg).marks = s.marks ∧ (s.abandonLeft b seg).boundary = s.boundary
    ∧ (s.abandonLeft b seg).admission = s.admission ∧ (s.abandonLeft b seg).barred = s.barred
    ∧ (s.abandonLeft b seg).groups = s.groups ∧ (s.abandonLeft b seg).poolFree = s.poolFree
    ∧ (s.abandonLeft b seg).port = s.port ∧ (s.abandonLeft b seg).events = s.events
    ∧ (s.abandonLeft b seg).enables = s.enables ∧ (s.abandonLeft b seg).lastReset = s.lastReset
    ∧ (s.abandonLeft b seg).inReset = s.inReset ∧ (s.abandonLeft b seg).pending = s.pending
    ∧ (∀ k, (s.abandonLeft b seg).binding k = s.binding k) ∧ (∀ k, (s.abandonLeft b seg).group k = s.group k) := by
  unfold State.abandonLeft; (repeat' split) <;> simp

/-! ### The end of an application -/

/-- The end of an application counts changes and abandons listings, and touches nothing else. -/
@[simp] theorem commit_keeps (b : State) (g : List Addr) (s : State) :
    (commit b g s).table = s.table ∧ (commit b g s).freeQueue = s.freeQueue
    ∧ (commit b g s).holdQueue = s.holdQueue ∧ (commit b g s).phase = s.phase ∧ (commit b g s).policy = s.policy
    ∧ (commit b g s).boundary = s.boundary ∧ (commit b g s).admission = s.admission
    ∧ (commit b g s).barred = s.barred ∧ (commit b g s).groups = s.groups ∧ (commit b g s).poolFree = s.poolFree
    ∧ (commit b g s).port = s.port ∧ (commit b g s).events = s.events ∧ (commit b g s).enables = s.enables
    ∧ (commit b g s).lastReset = s.lastReset ∧ (commit b g s).inReset = s.inReset
    ∧ (commit b g s).pending = s.pending ∧ (∀ k, (commit b g s).binding k = s.binding k)
    ∧ (∀ k, (commit b g s).group k = s.group k)
    ∧ (commit b g s).generation = (s.recordChanges (changedRecords b s g)).generation
    ∧ (commit b g s).marks = (s.recordChanges (changedRecords b s g)).marks := by
  simp [commit]

/-- The memberships of an address depend on the groups alone. -/
theorem groupsOf_congr {s t : State} (h : ∀ g, s.group g = t.group g) (a : Addr) : s.groupsOf a = t.groupsOf a := by
  simp [State.groupsOf, h]

/-- The record changes between two states depend on the records and the groups alone. -/
theorem changedRecords_congr {s s' t t' : State} {g : List Addr}
    (hs : ∀ a, (s.binding a).record = (s'.binding a).record) (hg : ∀ k, s.group k = s'.group k)
    (ht : ∀ a, (t.binding a).record = (t'.binding a).record) (hk : ∀ k, t.group k = t'.group k) :
    changedRecords s t g = changedRecords s' t' g := by
  unfold changedRecords
  congr 2
  · exact List.filter_congr (by intro a _; simp [bindingChanged, hs, ht, groupsOf_congr hg, groupsOf_congr hk])
  · exact List.filter_congr (by intro k _; simp [groupChanged, hg, hk])

/-- Nothing differs, so nothing is counted. -/
@[simp] theorem changedRecords_self (s : State) : changedRecords s s [] = [] := by
  simp [changedRecords, bindingChanged, groupChanged]

@[simp] theorem State.recordChanges_nil (s : State) : s.recordChanges [] = s := rfl

/-- A listing whose requester is as bound as it was runs on. -/
theorem State.abandonLeft_of_bound {b s : State} (h : ∀ a, (b.binding a).isBound = true → (s.binding a).isBound = true)
    (seg : Segment) : s.abandonLeft b seg = s := by
  unfold State.abandonLeft
  split
  · rfl
  · split
    · rename_i l _ hb
      simp only [Bool.and_eq_true, Bool.not_eq_true'] at hb
      rw [h _ hb.1] at hb
      simp at hb
    · rfl

/-- An application that unbinds nobody abandons no listing. -/
theorem commit_of_bound {b s : State} {g : List Addr}
    (h : ∀ a, (b.binding a).isBound = true → (s.binding a).isBound = true) :
    commit b g s = s.recordChanges (changedRecords b s g) := by
  unfold commit
  rw [State.abandonLeft_of_bound (by simpa using h), State.abandonLeft_of_bound (by simpa using h)]

/-- An application that changes nothing ends in nothing. -/
@[simp] theorem commit_self (s : State) : commit s [] s = s := by
  rw [commit_of_bound (fun _ h => h)]; simp

end Sys2Proof.Machine
end

