-- ==== Sys2Proof/Laws/Requests.lean ====
section
/-! SUPPORT. What the operations every station request and every host command passes through come to, each said once:
taking a frame, serving it by its class, and completing a command. -/

namespace Sys2Proof.Machine

/-- Two states are one when their fields are. -/
theorem State.ext_fields {s t : State} (h1 : s.table = t.table) (h2 : s.freeQueue = t.freeQueue)
    (h3 : s.holdQueue = t.holdQueue) (h4 : s.phase = t.phase) (h5 : s.policy = t.policy)
    (h6 : s.generation = t.generation) (h7 : s.marks = t.marks) (h8 : s.boundary = t.boundary)
    (h9 : s.admission = t.admission) (h10 : s.barred = t.barred) (h11 : s.groups = t.groups)
    (h12 : s.poolFree = t.poolFree) (h13 : ∀ seg, s.line seg = t.line seg)
    (h14 : ∀ seg, s.listing seg = t.listing seg) (h15 : s.port = t.port) (h16 : s.events = t.events)
    (h17 : s.enables = t.enables) (h18 : s.lastReset = t.lastReset) (h19 : s.inReset = t.inReset)
    (h20 : s.pending = t.pending) : s = t := by
  have hA := h13 .a; have hB := h13 .b; have kA := h14 .a; have kB := h14 .b
  cases s; cases t
  simp_all [State.line, State.listing]

/-! ### Taking a frame -/

/-- A frame that stands first and is served goes to its row's execution, its slot freed (R30). -/
theorem State.takeFrame_serves {s : State} {seg : Segment} {f : Frame} {rest : List Frame} (h : s.serves seg f rest)
    {ok : Byte → Bool} (hk : ok f.kind = true) (serve : Frame → State → State) :
    s.takeFrame ok seg serve = serve f (s.freed seg rest) := by
  obtain ⟨⟨hr, hp⟩, hq⟩ := h
  have hp' : ((s.freed seg rest).phase.isStopped) = false := by simpa [State.freed] using hp
  simp only [State.takeFrame, hr, hq, hk]
  simpa [State.freed] using fun h => absurd h (by simpa [State.freed] using hp')

/-- In STOPPED the frame taken is discarded (R30). -/
theorem State.takeFrame_stopped {s : State} {seg : Segment} {f : Frame} {rest : List Frame} (hr : s.inReset = none)
    (hp : s.phase = .stopped) (hq : (s.line seg).ready = f :: rest) {ok : Byte → Bool} (hk : ok f.kind = true)
    (serve : Frame → State → State) : s.takeFrame ok seg serve = s.freed seg rest := by
  simp only [State.takeFrame, hr, hq, hk]
  simp [State.freed, hp, Phase.isStopped]

/-- Freeing a slot changes the ready frames of one segment alone. -/
@[simp] theorem State.freed_keeps (seg : Segment) (rest : List Frame) (s : State) :
    (s.freed seg rest).table = s.table ∧ (s.freed seg rest).freeQueue = s.freeQueue
    ∧ (s.freed seg rest).holdQueue = s.holdQueue ∧ (s.freed seg rest).phase = s.phase
    ∧ (s.freed seg rest).policy = s.policy ∧ (s.freed seg rest).generation = s.generation
    ∧ (s.freed seg rest).marks = s.marks ∧ (s.freed seg rest).boundary = s.boundary
    ∧ (s.freed seg rest).admission = s.admission ∧ (s.freed seg rest).barred = s.barred
    ∧ (s.freed seg rest).groups = s.groups ∧ (s.freed seg rest).poolFree = s.poolFree
    ∧ (s.freed seg rest).port = s.port ∧ (s.freed seg rest).events = s.events
    ∧ (s.freed seg rest).enables = s.enables ∧ (s.freed seg rest).lastReset = s.lastReset
    ∧ (s.freed seg rest).inReset = s.inReset ∧ (s.freed seg rest).pending = s.pending
    ∧ (∀ k, (s.freed seg rest).binding k = s.binding k) ∧ (∀ k, (s.freed seg rest).group k = s.group k)
    ∧ (∀ k, (s.freed seg rest).listing k = s.listing k) := by
  simp [State.freed]

@[simp] theorem State.retryOf_freed (seg : Segment) (rest : List Frame) (a : Addr) (f : Frame) (s : State) :
    (s.freed seg rest).retryOf a f = s.retryOf a f := by
  simp [State.retryOf]

/-- The row of each request kind. -/
theorem requestRow_kinds (seg : Segment) :
    requestRow kindAsk seg = .ask seg ∧ requestRow kindTake seg = .take seg ∧ requestRow kindClaim seg = .claim seg
    ∧ requestRow kindRenew seg = .renew seg ∧ requestRow kindRelease seg = .release seg
    ∧ requestRow kindRetag seg = .retag seg ∧ requestRow kindResolve seg = .resolve seg
    ∧ requestRow kindReverse seg = .reverse seg ∧ requestRow kindFind seg = .find seg
    ∧ requestRow kindList seg = .list seg ∧ requestRow kindListAck seg = .listAck seg
    ∧ requestRow kindJoin seg = .join seg ∧ requestRow kindLeave seg = .leave seg
    ∧ requestRow kindMembers seg = .members seg := by
  and_intros <;> rfl

/-- The row of a kind that is none of the fourteen. -/
theorem requestRow_unknown {k : Byte} (h : k ∉ requestKinds) (seg : Segment) : requestRow k seg = .unknownKindFrame seg := by
  simp only [requestKinds, List.mem_cons, List.not_mem_nil, or_false, not_or] at h
  obtain ⟨h1, h2, h3, h4, h5, h6, h7, h8, h9, h10, h11, h12, h13, h14⟩ := h
  simp only [requestRow, h1, h2, h3, h4, h5, h6, h7, h8, h9, h10, h11, h12, h13, h14, if_false]

/-! ### Serving a frame by its source class -/

/-- The address byte of a short address is not 0. -/
theorem addrOf?_zero : addrOf? 0 = none := by decide

/-- A new request from a bound address is executed, or answered BADREQ, and its reply is cached (R34, R43). -/
theorem State.serveAddressed_new {α : Type} {parse : List Byte → Option α} {run : Segment → Addr → α → State → Answer}
    {after : Segment → Addr → α → State → State} {a : Addr} {seg : Segment} {f : Frame} {s : State}
    (hb : (s.binding a).isBound = true) (hn : s.retryOf a f = none) :
    s.serveAddressed parse run after a seg f =
      match parse f.body with
      | none => s.deliverCached seg f a { state := s, status := .badreq, rest := badreqRest f }
      | some x =>
        if (run seg a x s).status = .ok then after seg a x (s.deliverCached seg f a (run seg a x s))
        else s.deliverCached seg f a (run seg a x s) := by
  simp only [State.serveAddressed, hb, hn, if_true]
  try rfl

/-- A request from an unbound address is answered UNKNOWN (R33). -/
theorem State.serveAddressed_unbound {α : Type} {parse : List Byte → Option α}
    {run : Segment → Addr → α → State → Answer} {after : Segment → Addr → α → State → State} {a : Addr} {seg : Segment}
    {f : Frame} {s : State} (hb : (s.binding a).isBound = false) :
    s.serveAddressed parse run after a seg f = s.turnAway seg f .unknown [] := by
  simp [State.serveAddressed, hb]

/-- A retry is answered from the cache (R42). -/
theorem State.serveAddressed_retry {α : Type} {parse : List Byte → Option α}
    {run : Segment → Addr → α → State → Answer} {after : Segment → Addr → α → State → State} {a : Addr} {seg : Segment}
    {f : Frame} {s : State} {r : Replay} (hb : (s.binding a).isBound = true) (hr : s.retryOf a f = some r) :
    s.serveAddressed parse run after a seg f = s.handReply seg (retryReply f r) := by
  simp [State.serveAddressed, hb, hr]

/-- A bound kind from a short address. -/
theorem State.serveBound_addr {α : Type} {parse : List Byte → Option α} {run : Segment → Addr → α → State → Answer}
    {a : Addr} {seg : Segment} {f : Frame} {s : State} (ha : addrOf? f.source = some a) :
    s.serveBound parse run seg f = s.serveAddressed parse run nothingAfter a seg f := by
  simp [State.serveBound, ha]

/-- A new request of a Bound kind with a usable body: it is executed and its reply cached (R35, R43). -/
theorem State.serveBound_new {α : Type} {parse : List Byte → Option α} {run : Segment → Addr → α → State → Answer}
    {a : Addr} {seg : Segment} {f : Frame} {s : State} (h : s.newFrom f a) {x : α} (hx : parse f.body = some x) :
    s.serveBound parse run seg f = s.deliverCached seg f a (run seg a x s) := by
  rw [State.serveBound_addr h.1, State.serveAddressed_new h.2.1 h.2.2]
  simp [hx, nothingAfter]

/-- The answer of an execution that changed nothing (R36, R43). -/
theorem State.deliverCached_same (seg : Segment) (f : Frame) (a : Addr) (status : Status) (rest : List Byte) (s : State) :
    s.deliverCached seg f a { state := s, status := status, rest := rest } =
      (s.cacheReply a ⟨f.sequence, replyKind f.kind, status, rest⟩).handReply seg (replyTo f status rest) := by
  simp [State.deliverCached]

theorem State.deliver_same (seg : Segment) (f : Frame) (status : Status) (rest : List Byte) (s : State) :
    s.deliver seg f { state := s, status := status, rest := rest } = s.handReply seg (replyTo f status rest) := by
  simp [State.deliver]

/-- A request of the Either class that changes nothing is answered, cached when its source is bound (R32, R43). -/
theorem State.serveEither_lookup {α : Type} {parse : List Byte → Option α} {run : α → State → Answer} {seg : Segment}
    {f : Frame} {rest : List Frame} {s : State} (h : s.mayLookUp f) {x : α} (hx : parse f.body = some x)
    {status : Status} {body : List Byte}
    (hr : run x (s.freed seg rest) = { state := s.freed seg rest, status := status, rest := body }) :
    (s.freed seg rest).serveEither parse run seg f = s.lookedUp seg f rest status body := by
  rcases h with h0 | ⟨a, ha, hb, hn⟩
  · have hz : addrOf? f.source = none := by rw [h0]; decide
    simp [State.serveEither, State.lookedUp, State.answered, State.deliver_same, hx, hr, h0, show addrOf? 0#8 = none from rfl]
  · have h0 : ¬ f.source = 0#8 := by intro h; rw [h] at ha; simp [addrOf?] at ha
    have hn' : (s.freed seg rest).newFrom f a := ⟨ha, by simpa using hb, by simpa using hn⟩
    simp [State.serveEither, State.lookedUp, State.answeredCached, h0, ha, State.serveBound_new hn' hx, hr,
      State.deliverCached_same]

/-! ### Looking a binding up -/

theorem mem_allAddrs (a : Addr) : a ∈ allAddrs := by simp [allAddrs]

/-- The search finds the one binding that answers it. -/
theorem State.findBinding_of_unique {p : Binding → Bool} {s : State} {a : Addr} (ha : p (s.binding a) = true)
    (hu : ∀ b, p (s.binding b) = true → b = a) : s.findBinding p = some a := by
  unfold State.findBinding
  cases h : allAddrs.find? (fun a => p (s.binding a)) with
  | none => simpa [ha] using List.find?_eq_none.mp h a (mem_allAddrs a)
  | some b => exact congrArg some (hu b (List.find?_some (p := fun a => p (s.binding a)) h))

/-- The search finds nothing when no binding answers it. -/
theorem State.findBinding_none {p : Binding → Bool} {s : State} (h : ∀ a, p (s.binding a) = false) :
    s.findBinding p = none := by
  simp [State.findBinding, h]

/-- What the search finds answers it. -/
theorem State.findBinding_some {p : Binding → Bool} {s : State} {a : Addr} (h : s.findBinding p = some a) :
    p (s.binding a) = true := List.find?_some (p := fun a => p (s.binding a)) h

/-- The first entry found in an ascending list is that of its lowest address with one. -/
theorem filterMap_first {β : Type} {f : Addr → Option β} {b : Addr} {e : β} :
    ∀ {l : List Addr}, l.Pairwise (· < ·) → b ∈ l → f b = some e → (∀ k ∈ l, k < b → f k = none) →
      ∃ m, l.filterMap f = e :: m
  | [], _, hb, _, _ => by simp at hb
  | x :: xs, hp, hb, he, hn => by
    rw [List.pairwise_cons] at hp
    rcases List.mem_cons.mp hb with rfl | hb'
    · exact ⟨xs.filterMap f, by simp [he]⟩
    · obtain ⟨m, hm⟩ := filterMap_first hp.2 hb' he (fun k hk => hn k (List.mem_cons_of_mem _ hk))
      exact ⟨m, by simp [hn x (by simp) (hp.1 b hb'), hm]⟩

/-! ### What an application leaves -/

/-- Handing a reply over depends on, and touches, the controllers and the event factors alone. -/
theorem State.handReply_congr {s t : State} (seg : Segment) (f : Frame) (hl : ∀ k, s.line k = t.line k)
    (he : s.events = t.events) :
    (∀ k, (s.handReply seg f).line k = (t.handReply seg f).line k)
      ∧ (s.handReply seg f).events = (t.handReply seg f).events := by
  unfold State.handReply
  simp only [hl]
  split
  · exact ⟨hl, he⟩
  · split
    · exact ⟨fun k => by simp only [State.line_setLine, hl], by simpa using he⟩
    · split
      · refine ⟨fun k => ?_, ?_⟩
        · simp only [State.setFactor_keeps, State.line_setLine, hl]
        · simp [he]
      · exact ⟨hl, he⟩

/-- Handing a notice over depends on, and touches, the controllers and the event factors alone. -/
theorem State.handNotice_congr {s t : State} (seg : Segment) (f : Frame) (hl : ∀ k, s.line k = t.line k)
    (he : s.events = t.events) :
    (∀ k, (s.handNotice seg f).line k = (t.handNotice seg f).line k)
      ∧ (s.handNotice seg f).events = (t.handNotice seg f).events := by
  unfold State.handNotice
  simp only [hl]
  split
  · exact ⟨fun k => by simp only [State.line_setLine, hl], by simpa using he⟩
  · exact ⟨fun k => by simpa using hl k, by simp [he]⟩

/-- The records an application changed are counted in the state it leaves, whatever follows that changes no record. -/
theorem counted_of_commit {s s0 x t : State} {g : List Addr}
    (hs : ∀ a, (s0.binding a).record = (s.binding a).record) (hsg : ∀ k, s0.group k = s.group k)
    (ht : ∀ a, (t.binding a).record = (x.binding a).record) (htg : ∀ k, t.group k = x.group k)
    (hg : x.generation = s.generation) (hm : x.marks = s.marks)
    (htgen : t.generation = (commit s0 g x).generation) (htm : t.marks = (commit s0 g x).marks) : counted s t g := by
  have hc : changedRecords s t g = changedRecords s0 x g :=
    changedRecords_congr (fun a => (hs a).symm) (fun k => (hsg k).symm) ht htg
  simp [counted, hc, htgen, htm, State.recordChanges, hg, hm]

/-- A new request from a bound address that rewrote the record alone. -/
theorem State.deliverCached_rewrites {s : State} {seg : Segment} {f : Frame} {rest : List Frame} {a : Addr} {h : Holder}
    {l : Lease} {v : Bool} {p : Option Replay} {status : Status} {body : List Byte} {granted : List Addr} :
    rewrites s (s.answered seg f rest status body)
      ((s.freed seg rest).deliverCached seg f a
        { state := (s.freed seg rest).setBinding a (.bound h l v p), status := status, rest := body, granted := granted })
      a (.bound h l v (f.pair status body)) granted := by
  have hb : ∀ b, ((s.freed seg rest).binding b).isBound = true →
      (((s.freed seg rest).setBinding a (.bound h l v p)).binding b).isBound = true := by
    intro b hb
    rw [State.binding_setBinding]
    split
    · rfl
    · exact hb
  have hbind : ∀ b, ((s.freed seg rest).deliverCached seg f a
        { state := (s.freed seg rest).setBinding a (.bound h l v p), status := status, rest := body, granted := granted }).binding b
      = if b = a then .bound h l v (f.pair status body) else s.binding b := by
    intro b
    by_cases hab : b = a
    · subst hab
      simp [State.deliverCached, State.cacheReply_binding, Frame.pair]
    · simp [State.deliverCached, hab]
  refine ⟨?_, by simp [hbind], fun b hab => by simp [hbind, hab], ?_⟩
  · have hx := State.handReply_congr (s := (commit (s.freed seg rest) granted
        ((s.freed seg rest).setBinding a (.bound h l v p))).cacheReply a ⟨f.sequence, replyKind f.kind, status, body⟩)
      (t := s.freed seg rest) seg (replyTo f status body)
      (by intro k; simp [commit_of_bound hb]) (by simp)
    have hlst : ∀ k, (commit (s.freed seg rest) granted ((s.freed seg rest).setBinding a (.bound h l v p))).listing k
        = (s.freed seg rest).listing k := by intro k; simp [commit_of_bound hb]
    apply State.ext_fields <;> simp [State.deliverCached, State.answered]
    · rintro (_ | _)
      · exact hx.1 .a
      · exact hx.1 .b
    · rintro (_ | _)
      · exact hlst .a
      · exact hlst .b
    · exact hx.2
  · apply counted_of_commit (s0 := s.freed seg rest) (x := (s.freed seg rest).setBinding a (.bound h l v p))
    · simp
    · simp
    · intro b; rw [hbind, State.binding_setBinding]; split <;> simp [Binding.record]
    · intro k; simp [State.deliverCached]
    · simp
    · simp
    · simp [State.deliverCached]
    · simp [State.deliverCached]

/-! ### Counting records -/

/-- A test that only one member of a list without duplicates can pass selects it, or nothing. -/
theorem filter_only {α : Type} [DecidableEq α] {p : α → Bool} {a : α} {q : List α} (hn : q.Nodup) (ha : a ∈ q)
    (hp : ∀ b, b ≠ a → p b = false) : q.filter p = if p a then [a] else [] := by
  have h : q.filter p = q.filter (fun b => decide (b = a) && p a) := by
    apply List.filter_congr
    intro b _
    by_cases h : b = a
    · simp [h]
    · simp [h, hp b h]
  rw [h]
  split
  · rename_i hpa
    have hc : q.count a = 1 := by rw [hn.count, if_pos ha]
    simp only [hpa, Bool.and_true]
    rw [List.filter_eq, hc]
    rfl
  · rename_i hpa
    simp [hpa]

theorem nodup_allAddrs : allAddrs.Nodup := List.nodup_finRange 96

theorem nodup_allGroups : allGroups.Nodup := List.nodup_finRange 16

theorem mem_allGroups (g : GroupNo) : g ∈ allGroups := by simp [allGroups]

/-- An application that touched one binding record, and no group, changed that record or none (R25). -/
theorem changedRecords_one {s t : State} {a : Addr} {g : List Addr} (ho : ∀ b, b ≠ a → t.binding b = s.binding b)
    (hg : ∀ k, t.group k = s.group k) (hgr : ∀ b ∈ g, b = a) :
    changedRecords s t g =
      if a ∈ g ∨ (s.binding a).record ≠ (t.binding a).record then [.addr a] else [] := by
  have h1 : allGroups.filter (groupChanged s t) = [] := by simp [groupChanged, hg]
  have h2 : allAddrs.filter (bindingChanged s t g) = if bindingChanged s t g a then [a] else [] := by
    apply filter_only nodup_allAddrs (mem_allAddrs a)
    intro b hb
    have : b ∉ g := fun h => hb (hgr b h)
    simp [bindingChanged, ho b hb, groupsOf_congr hg, this]
  have h3 : bindingChanged s t g a = decide (a ∈ g ∨ (s.binding a).record ≠ (t.binding a).record) := by
    simp [bindingChanged, groupsOf_congr hg]
  simp only [changedRecords, h1, h2, h3, decide_eq_true_eq]
  split <;> simp

/-! ### Completing a host command -/

/-- The row of the command in execution runs it and holds its reply (R179). -/
theorem State.runCommand_executing {s : State} {k : Byte} {ps : List Byte} (h : s.executing k ps) {ok : Byte → Bool}
    (hk : ok k = true) (run : List Byte → State → HostAnswer) : s.runCommand ok run = s.complete (run ps s) := by
  simp [State.runCommand, h.1, h.2, hk]

/-- A command that fails changes the port alone (R179, R180). -/
@[simp] theorem State.complete_failed (status : HostStatus) (s : State) : s.complete (failed status s) = s.replied status [] := by
  simp [State.complete, failed, State.replied]

/-- A command that reads changes the port alone. -/
@[simp] theorem State.complete_same (status : HostStatus) (data : List Byte) (s : State) :
    s.complete { state := s, status := status, data := data } = s.replied status data := by
  simp [State.complete, State.replied]

end Sys2Proof.Machine
end

