-- ==== Sys2Proof/Laws/Moves.lean ====
section
/-! SUPPORT. What the state entries of section 1.2 do to the queues and the memberships, what the end of an application does
to the listings, and the two together: how an application that moves one binding is seen in the state it leaves. -/

namespace Sys2Proof.Machine

/-! ### Queues and memberships after a state entry -/

@[simp] theorem insertBefore_true {α : Type} (a : α) (q : List α) : insertBefore (fun _ => true) a q = a :: q := by
  cases q <;> simp [insertBefore]

@[simp] theorem insertBefore_false {α : Type} (a : α) (q : List α) : insertBefore (fun _ => false) a q = q ++ [a] := by
  induction q with
  | nil => simp [insertBefore]
  | cons x xs ih => simp [insertBefore, ih]

/-- Every membership of the address is dropped and its entries are back (R152). -/
@[simp] theorem State.goFree_drops (p : FreePlace) (a : Addr) (s : State) : membershipsDropped s (s.goFree p a) a := by
  constructor
  · intro g; simp [State.goFree]
  · simp [State.goFree, State.entriesOf]

@[simp] theorem State.goFree_hold (p : FreePlace) (a : Addr) (s : State) :
    (s.goFree p a).holdQueue = dropAddr a s.holdQueue := by
  simp only [State.goFree]; cases p <;> simp [State.joinFree]

@[simp] theorem State.goFree_head (a : Addr) (s : State) :
    (s.goFree .head a).freeQueue = a :: dropAddr a s.freeQueue := by
  simp [State.goFree, State.joinFree]

@[simp] theorem State.goFree_tail (a : Addr) (s : State) :
    (s.goFree .tail a).freeQueue = dropAddr a s.freeQueue ++ [a] := by
  simp [State.goFree, State.joinFree]

/-- The boundary's bookkeeping names no expiry yet. -/
abbrev Boundary.untouched (b : Boundary) : Prop := b.lapsed = [] ∧ b.expired = [] ∧ b.others = [] ∧ b.entered = []

/-- The first expiry at a boundary takes the head or the tail like any other entry (R7, R20). -/
theorem State.goFree_first (a : Addr) (s : State) (h : s.boundary.untouched) :
    (s.goFree .lapse a).freeQueue = a :: dropAddr a s.freeQueue
      ∧ (s.goFree .holdExpiry a).freeQueue = dropAddr a s.freeQueue ++ [a]
      ∧ (s.goFree .otherExpiry a).freeQueue = dropAddr a s.freeQueue ++ [a] := by
  obtain ⟨h1, h2, h3, h4⟩ := h
  simp [State.goFree, State.joinFree, State.leaveQueues, dropAddr, h1, h2, h3]

theorem State.enterHold_queues (former : Option Holder) (a : Addr) (s : State) :
    (s.enterHold former false a).freeQueue = dropAddr a s.freeQueue
      ∧ (s.enterHold former false a).holdQueue = dropAddr a s.holdQueue ++ [a] := by
  simp [State.enterHold, State.joinHold]

theorem State.enterHold_first (former : Option Holder) (a : Addr) (s : State) (h : s.boundary.untouched) :
    (s.enterHold former true a).freeQueue = dropAddr a s.freeQueue
      ∧ (s.enterHold former true a).holdQueue = dropAddr a s.holdQueue ++ [a] := by
  obtain ⟨h1, h2, h3, h4⟩ := h
  simp [State.enterHold, State.joinHold, State.leaveQueues, dropAddr, h4]

@[simp] theorem State.goReserved_drops (r : Reservation) (a : Addr) (s : State) :
    membershipsDropped s (s.goReserved r a) a ∧ leavesQueues s (s.goReserved r a) a := by
  refine ⟨⟨?_, ?_⟩, ?_, ?_⟩
  · intro g; simp [State.goReserved]
  · simp [State.goReserved, State.entriesOf]
  · simp [State.goReserved]
  · simp [State.goReserved]

/-! ### Listings at the end of an application -/

/-- What the abandonment of the listings of an address leaves of each segment (R137). -/
theorem State.withoutListingsOf_units (a : Addr) (s : State) (k : Segment) :
    (s.withoutListingsOf a).line k =
        (if (s.listing k).any (fun l => decide (l.requester = a)) then
          { s.line k with queue := (s.line k).queue.map QueuedFrame.disown } else s.line k)
      ∧ (s.withoutListingsOf a).listing k =
        (if (s.listing k).any (fun l => decide (l.requester = a)) then none else s.listing k) := by
  have end_line : ∀ (seg k : Segment) (t : State), (t.endListing seg).line k =
      if k = seg then { t.line k with queue := (t.line k).queue.map QueuedFrame.disown } else t.line k := by
    intro seg k t; cases seg <;> cases k <;> simp [State.endListing, State.disownCopies]
  have end_listing : ∀ (seg k : Segment) (t : State), (t.endListing seg).listing k =
      if k = seg then none else t.listing k := by
    intro seg k t; simp [State.endListing, State.listing_setListing]
  unfold State.withoutListingsOf
  cases hA : s.listing .a with
  | none =>
    cases hB : s.listing .b with
    | none => cases k <;> simp [hA, hB]
    | some m => by_cases h : m.requester = a <;> cases k <;> simp [hA, hB, h, end_line, end_listing]
  | some l =>
    by_cases hl : l.requester = a
    · cases hB : s.listing .b with
      | none => cases k <;> simp [hA, hB, hl, end_line, end_listing]
      | some m => by_cases h : m.requester = a <;> cases k <;> simp [hA, hB, hl, h, end_line, end_listing]
    · cases hB : s.listing .b with
      | none => cases k <;> simp [hA, hB, hl]
      | some m => by_cases h : m.requester = a <;> cases k <;> simp [hA, hB, hl, h, end_line, end_listing]

/-- It touches the listing units and the copies they have queued alone. -/
@[simp] theorem State.withoutListingsOf_keeps (a : Addr) (s : State) :
    (s.withoutListingsOf a).table = s.table ∧ (s.withoutListingsOf a).freeQueue = s.freeQueue
    ∧ (s.withoutListingsOf a).holdQueue = s.holdQueue ∧ (s.withoutListingsOf a).phase = s.phase
    ∧ (s.withoutListingsOf a).policy = s.policy ∧ (s.withoutListingsOf a).generation = s.generation
    ∧ (s.withoutListingsOf a).marks = s.marks ∧ (s.withoutListingsOf a).boundary = s.boundary
    ∧ (s.withoutListingsOf a).admission = s.admission ∧ (s.withoutListingsOf a).barred = s.barred
    ∧ (s.withoutListingsOf a).groups = s.groups ∧ (s.withoutListingsOf a).poolFree = s.poolFree
    ∧ (s.withoutListingsOf a).port = s.port ∧ (s.withoutListingsOf a).events = s.events
    ∧ (s.withoutListingsOf a).enables = s.enables ∧ (s.withoutListingsOf a).lastReset = s.lastReset
    ∧ (s.withoutListingsOf a).inReset = s.inReset ∧ (s.withoutListingsOf a).pending = s.pending
    ∧ (∀ k, (s.withoutListingsOf a).binding k = s.binding k) ∧ (∀ k, (s.withoutListingsOf a).group k = s.group k) := by
  unfold State.withoutListingsOf
  dsimp only
  cases s.listing .a with
  | none => dsimp only; (repeat' split) <;> simp
  | some l =>
    dsimp only
    split <;> (repeat' split) <;> simp

/-- The listings of a requester whose binding the application unbound are abandoned, and no others (R137). -/
theorem commit_of_unbound {s x : State} {a : Addr} {g : List Addr} (hs : (s.binding a).isBound = true)
    (hx : (x.binding a).isBound = false) (ho : othersKept s x a) (k : Segment) :
    (commit s g x).line k = (x.withoutListingsOf a).line k
      ∧ (commit s g x).listing k = (x.withoutListingsOf a).listing k := by
  have left : ∀ (seg : Segment) (t : State), (∀ b, t.binding b = x.binding b) → t.abandonLeft s seg =
      match t.listing seg with
      | none => t
      | some l => if l.requester = a then t.endListing seg else t := by
    intro seg t ht
    unfold State.abandonLeft
    split
    · rename_i h; simp [h]
    · rename_i l h
      try simp only [h]
      by_cases hl : l.requester = a
      · simp [hl, hs, ht, hx]
      · simp [hl, ht, ho _ hl]
  have hc : commit s g x = (x.recordChanges (changedRecords s x g)).withoutListingsOf a := by
    unfold commit State.withoutListingsOf
    rw [left .b _ (by simp), left .a _ (by simp)]
    try rfl
  rw [hc]
  have h1 := State.withoutListingsOf_units a (x.recordChanges (changedRecords s x g)) k
  have h2 := State.withoutListingsOf_units a x k
  rw [h1.1, h1.2, h2.1, h2.2]
  simp

/-! ### A binding moved, step by step -/

/-- `x` is `y` but for the record of `a`, which is `b`, the address queues and the memberships, and nothing is counted yet. -/
def movedTo (s y x : State) (a : Addr) (b : Binding) : Prop :=
  x = { y with
        table := x.table, freeQueue := x.freeQueue, holdQueue := x.holdQueue, boundary := x.boundary
        groups := x.groups, poolFree := x.poolFree }
    ∧ x.binding a = b ∧ othersKept s x a ∧ y.generation = s.generation ∧ y.marks = s.marks

theorem State.line_eq {s t : State} (hA : s.lineA = t.lineA) (hB : s.lineB = t.lineB) (k : Segment) : s.line k = t.line k := by
  cases k
  · exact hA
  · exact hB

theorem State.listing_eq {s t : State} (hA : s.listingA = t.listingA) (hB : s.listingB = t.listingB) (k : Segment) :
    s.listing k = t.listing k := by
  cases k
  · exact hA
  · exact hB

/-- The fields of the state moved from, read in the one moved to. -/
theorem movedTo.fields {s y x : State} {a : Addr} {b : Binding} (h : movedTo s y x a b) :
    x.phase = y.phase ∧ x.policy = y.policy ∧ x.generation = y.generation ∧ x.marks = y.marks
      ∧ x.admission = y.admission ∧ x.barred = y.barred ∧ (∀ k, x.line k = y.line k)
      ∧ (∀ k, x.listing k = y.listing k) ∧ x.port = y.port ∧ x.events = y.events ∧ x.enables = y.enables
      ∧ x.lastReset = y.lastReset ∧ x.inReset = y.inReset ∧ x.pending = y.pending := by
  have hx := h.1
  refine ⟨?_, ?_, ?_, ?_, ?_, ?_, State.line_eq ?_ ?_, State.listing_eq ?_ ?_, ?_, ?_, ?_, ?_, ?_, ?_⟩ <;>
    (rw [hx])

/-- A move is shown by its fields. -/
theorem movedTo.intro {s y x : State} {a : Addr} {b : Binding}
    (h : x.phase = y.phase ∧ x.policy = y.policy ∧ x.generation = y.generation ∧ x.marks = y.marks
      ∧ x.admission = y.admission ∧ x.barred = y.barred ∧ (∀ k, x.line k = y.line k)
      ∧ (∀ k, x.listing k = y.listing k) ∧ x.port = y.port ∧ x.events = y.events ∧ x.enables = y.enables
      ∧ x.lastReset = y.lastReset ∧ x.inReset = y.inReset ∧ x.pending = y.pending)
    (hb : x.binding a = b) (ho : othersKept s x a) (hg : y.generation = s.generation) (hm : y.marks = s.marks) :
    movedTo s y x a b := by
  obtain ⟨h1, h2, h3, h4, h5, h6, h7, h8, h9, h10, h11, h12, h13, h14⟩ := h
  refine ⟨?_, hb, ho, hg, hm⟩
  apply State.ext_fields
  all_goals first | rfl | assumption

/-- A move and what it counts are shown by the fields. -/
theorem moves_intro {s u t : State} {a : Addr} {b : Binding} {g : List Addr}
    (h : t.phase = u.phase ∧ t.policy = u.policy ∧ t.admission = u.admission ∧ t.barred = u.barred
      ∧ (∀ k, t.line k = u.line k) ∧ (∀ k, t.listing k = u.listing k) ∧ t.port = u.port ∧ t.events = u.events
      ∧ t.enables = u.enables ∧ t.lastReset = u.lastReset ∧ t.inReset = u.inReset ∧ t.pending = u.pending)
    (hb : t.binding a = b) (ho : othersKept s t a) (hc : counted s t g) : moves s u t a b g := by
  obtain ⟨h1, h2, h3, h4, h5, h6, h7, h8, h9, h10, h11, h12⟩ := h
  refine ⟨?_, hb, ho, hc⟩
  apply State.ext_fields
  all_goals first | rfl | assumption

theorem moves.fields {s u t : State} {a : Addr} {b : Binding} {g : List Addr} (h : moves s u t a b g) :
    t.phase = u.phase ∧ t.policy = u.policy ∧ t.admission = u.admission ∧ t.barred = u.barred
      ∧ (∀ k, t.line k = u.line k) ∧ (∀ k, t.listing k = u.listing k) ∧ t.port = u.port ∧ t.events = u.events
      ∧ t.enables = u.enables ∧ t.lastReset = u.lastReset ∧ t.inReset = u.inReset ∧ t.pending = u.pending := by
  have hx := h.1
  refine ⟨?_, ?_, ?_, ?_, State.line_eq ?_ ?_, State.listing_eq ?_ ?_, ?_, ?_, ?_, ?_, ?_, ?_⟩ <;> (rw [hx])

/-- A VACATE sent after the move goes with it (R48). -/
theorem movedTo.sendVacate {s y x : State} {a : Addr} {b : Binding} (h : movedTo s y x a b) (c : Addr) (i : Identity)
    (seg : Segment) (r : VacateReason) : movedTo s (y.sendVacate c i seg r) (x.sendVacate c i seg r) a b := by
  have hf := h.fields
  obtain ⟨h1, h2, h3, h4, h5, h6, h7, h8, h9, h10, h11, h12, h13, h14⟩ := hf
  have hc := State.handNotice_congr seg (vacateNotice c i r) h7 h10
  apply movedTo.intro
  · refine ⟨?_, ?_, ?_, ?_, ?_, ?_, ?_, ?_, ?_, ?_, ?_, ?_, ?_, ?_⟩ <;> first | simpa using ‹_› | skip
    · exact hc.1
    · exact hc.2
  · simpa using h.2.1
  · intro d hd; simpa using h.2.2.1 d hd
  · simpa using h.2.2.2.1
  · simpa using h.2.2.2.2

/-! ### Each state entry as a move -/

/-- Every entry of section 1.2 moves one binding (R7 to R13). -/
theorem movedTo_entries (s : State) (a : Addr) :
    (∀ p, movedTo s s (s.goFree p a) a .free)
      ∧ (∀ h n, movedTo s s (s.goHeldWith h n a) a ((s.goHeldWith h n a).binding a))
      ∧ movedTo s s (s.goHeldAnonymous a) a ((s.goHeldAnonymous a).binding a)
      ∧ (∀ r, movedTo s s (s.goReserved r a) a (.reserved r))
      ∧ movedTo s s (s.makeAnonymous a) a ((s.makeAnonymous a).binding a)
      ∧ (∀ h l v n, movedTo s s (s.giveUp h l v n a) a ((s.giveUp h l v n a).binding a))
      ∧ (∀ h l v, movedTo s s (s.expel h l v a) a ((s.expel h l v a).binding a))
      ∧ (∀ h o p n, movedTo s s (s.returnOffer h o p n a) a ((s.returnOffer h o p n a).binding a))
      ∧ (∀ h o, movedTo s s (s.revokeOffer h o a) a ((s.revokeOffer h o a).binding a))
      ∧ (∀ h l v, movedTo s s (s.enterBound h l v a) a (.bound h l v none))
      ∧ (∀ h l v, movedTo s s (s.keepIncumbent h l v a) a (.bound h (s.freshLease v l.kind) v none))
      ∧ (∀ c l v, movedTo s s (s.keepChallenger c l v a) a (.bound c.asHolder (s.freshLease v l.kind) v none))
      ∧ (∀ b, movedTo s s (s.setBinding a b) a b) := by
  refine ⟨?_, ?_, ?_, ?_, ?_, ?_, ?_, ?_, ?_, ?_, ?_, ?_, ?_⟩
  all_goals (intros; apply movedTo.intro <;> first | rfl | simp | (intro b hb; simp [hb]))

/-- An offer moves one binding and removes the admission entry of its identity (R10, R69). -/
theorem movedTo_offers (s : State) (a : Addr) (h : Holder) :
    (∀ o, movedTo s (s.removeEntry h.identity) (s.makeOffer h o a) a (.offered h o (Countdown.fresh s.policy.offerWindow)))
      ∧ movedTo s (s.removeEntry h.identity) (s.offerNewcomer h a) a
          (.offered h .free (Countdown.fresh s.policy.offerWindow)) := by
  constructor
  · intro o
    apply movedTo.intro
    · simp [State.makeOffer]
    · simp
    · intro b hb; simp [hb]
    · simp
    · simp
  · apply movedTo.intro
    · simp [State.offerNewcomer, State.makeOffer]
    · simp
    · intro b hb; simp [hb]
    · simp
    · simp

/-- The expulsion seen in the state the application leaves. -/
theorem expels_of {s u t : State} {a : Addr} {h : Holder} {l : Lease} {v : Bool}
    (hm : ∀ b, (s.expel h l v a).binding a = b → moves s u t a b []) (hf : t.freeQueue = (s.expel h l v a).freeQueue)
    (hh : t.holdQueue = (s.expel h l v a).holdQueue) (hg : ∀ k, t.group k = (s.expel h l v a).group k)
    (hp : t.poolFree = (s.expel h l v a).poolFree) : expels s u t a h l v := by
  unfold expels
  unfold State.expel at *
  split
  · rename_i hv
    simp only [hv, if_true] at *
    have := State.goReserved_drops (h.reservation l.kind) a s
    refine ⟨hm _ (by simp), ⟨hf.trans this.2.1, hh.trans this.2.2⟩, fun g => (hg g).trans (this.1.1 g), hp.trans this.1.2⟩
  · rename_i hv
    simp only [Bool.not_eq_true] at hv
    simp only [hv, Bool.false_eq_true, if_false] at *
    unfold goesHeldAnonymous
    unfold State.goHeldAnonymous at *
    split
    · rename_i hz
      simp only [hz, if_true] at *
      have := State.goFree_drops .tail a s
      exact ⟨hm _ (by simp), hf.trans (by simp), hh.trans (by simp), fun g => (hg g).trans (this.1 g), hp.trans this.2⟩
    · rename_i hz
      simp only [hz, if_false] at *
      have hq := State.enterHold_queues none a (s.dropMember a)
      refine ⟨hm _ (by simp), hf.trans (by simpa using hq.1), hh.trans (by simpa using hq.2), fun g => (hg g).trans ?_,
        hp.trans ?_⟩
      · simp
      · simp [State.entriesOf]

/-- A release or an expiry seen in the state the application leaves. -/
theorem goesHeldWith_of {s u t : State} {a : Addr} {h : Holder} {n : Bool} (hn : n = true → s.boundary.untouched)
    (hm : ∀ b, (s.goHeldWith h n a).binding a = b → moves s u t a b []) (hf : t.freeQueue = (s.goHeldWith h n a).freeQueue)
    (hh : t.holdQueue = (s.goHeldWith h n a).holdQueue) (hg : ∀ k, t.group k = (s.goHeldWith h n a).group k)
    (hgs : t.groups = (s.goHeldWith h n a).groups) (hp : t.poolFree = (s.goHeldWith h n a).poolFree) :
    goesHeldWith s u t a h := by
  unfold goesHeldWith
  unfold State.goHeldWith at *
  split
  · rename_i hz
    simp only [hz, if_true] at *
    have := State.goFree_drops (tailPlace n) a s
    refine ⟨hm _ (by simp), hf.trans ?_, hh.trans (by simp), fun g => (hg g).trans (this.1 g), hp.trans this.2⟩
    cases n
    · simp [tailPlace]
    · simpa [tailPlace] using (State.goFree_first a s (hn rfl)).2.2
  · rename_i hz
    simp only [hz, if_false] at *
    have hq : (s.enterHold (some h) n a).freeQueue = dropAddr a s.freeQueue
        ∧ (s.enterHold (some h) n a).holdQueue = dropAddr a s.holdQueue ++ [a] := by
      cases n
      · exact State.enterHold_queues _ _ _
      · exact State.enterHold_first _ _ _ (hn rfl)
    exact ⟨hm _ (by simp), hf.trans hq.1, hh.trans hq.2, hgs.trans (by simp), hp.trans (by simp)⟩

theorem givesUp_of {s u t : State} {a : Addr} {h : Holder} {l : Lease} {v n : Bool} (hn : n = true → s.boundary.untouched)
    (hm : ∀ b, (s.giveUp h l v n a).binding a = b → moves s u t a b []) (hf : t.freeQueue = (s.giveUp h l v n a).freeQueue)
    (hh : t.holdQueue = (s.giveUp h l v n a).holdQueue) (hg : ∀ k, t.group k = (s.giveUp h l v n a).group k)
    (hgs : t.groups = (s.giveUp h l v n a).groups) (hp : t.poolFree = (s.giveUp h l v n a).poolFree) :
    givesUp s u t a h l v := by
  unfold givesUp
  unfold State.giveUp at *
  split
  · rename_i hv
    simp only [hv, if_true] at *
    have := State.goReserved_drops (h.reservation l.kind) a s
    exact ⟨hm _ (by simp), ⟨hf.trans this.2.1, hh.trans this.2.2⟩, fun g => (hg g).trans (this.1.1 g), hp.trans this.1.2⟩
  · rename_i hv
    simp only [Bool.not_eq_true] at hv
    simp only [hv, Bool.false_eq_true, if_false] at *
    exact goesHeldWith_of hn hm hf hh hg hgs hp

theorem revokes_of {s u t : State} {a : Addr} {h : Holder} {o : Origin}
    (hm : ∀ b, (s.revokeOffer h o a).binding a = b → moves s u t a b []) (hf : t.freeQueue = (s.revokeOffer h o a).freeQueue)
    (hh : t.holdQueue = (s.revokeOffer h o a).holdQueue) (hg : ∀ k, t.group k = (s.revokeOffer h o a).group k)
    (hp : t.poolFree = (s.revokeOffer h o a).poolFree) : revokes s u t a h o := by
  unfold revokes
  unfold State.revokeOffer at *
  cases o with
  | free =>
    have := State.goFree_drops .head a s
    exact ⟨hm _ (by simp), hf.trans (by simp), hh.trans (by simp), fun g => (hg g).trans (this.1 g), hp.trans this.2⟩
  | held =>
    have := expels_of (h := h) (l := .permanent) (v := false) (s := s) (a := a) (u := u) (t := t) hm hf hh hg hp
    simpa [expels] using this
  | reserved k =>
    have := expels_of (h := h) (l := match k with | .timed => .grant 0 | .permanent => .permanent) (v := true) (s := s) (a := a)
      (u := u) (t := t)
    cases k <;> simpa [expels, State.expel, Lease.kind, Lease.grant] using this hm hf hh hg hp

/-- The application ends: a requester that was not unbound keeps its listings. -/
theorem movedTo.commit_kept {s y x : State} {a : Addr} {b : Binding} (h : movedTo s y x a b) (g : List Addr)
    (hk : (s.binding a).isBound = true → b.isBound = true) : moves s y (commit s g x) a b g := by
  have hb : ∀ c, (s.binding c).isBound = true → (x.binding c).isBound = true := by
    intro c hc
    by_cases hca : c = a
    · subst hca; rw [h.2.1]; exact hk hc
    · rw [h.2.2.1 c hca]; exact hc
  obtain ⟨h1, h2, h3, h4, h5, h6, h7, h8, h9, h10, h11, h12, h13, h14⟩ := h.fields
  apply moves_intro
  · rw [commit_of_bound hb]
    simp [h1, h2, h5, h6, h7, h8, h9, h10, h11, h12, h13, h14]
  · simpa using h.2.1
  · intro d hd; simpa using h.2.2.1 d hd
  · exact counted_of_commit (s0 := s) (x := x) (fun _ => rfl) (fun _ => rfl) (by simp) (by simp)
      (h3.trans h.2.2.2.1) (h4.trans h.2.2.2.2) rfl rfl

/-- The application ends: a requester that was unbound loses its listings (R137). -/
theorem movedTo.commit_unbound {s y x : State} {a : Addr} {b : Binding} (h : movedTo s y x a b) (g : List Addr)
    (hs : (s.binding a).isBound = true) (hb : b.isBound = false) :
    moves s (y.withoutListingsOf a) (commit s g x) a b g := by
  obtain ⟨h1, h2, h3, h4, h5, h6, h7, h8, h9, h10, h11, h12, h13, h14⟩ := h.fields
  have hu := commit_of_unbound (g := g) hs (by rw [h.2.1]; exact hb) h.2.2.1
  apply moves_intro
  · refine ⟨?_, ?_, ?_, ?_, ?_, ?_, ?_, ?_, ?_, ?_, ?_, ?_⟩ <;> first | simpa using ‹_› | skip
    · intro k; rw [(hu k).1, (State.withoutListingsOf_units a x k).1, (State.withoutListingsOf_units a y k).1, h7, h8]
    · intro k; rw [(hu k).2, (State.withoutListingsOf_units a x k).2, (State.withoutListingsOf_units a y k).2, h8]
  · simpa using h.2.1
  · intro d hd; simpa using h.2.2.1 d hd
  · exact counted_of_commit (s0 := s) (x := x) (fun _ => rfl) (fun _ => rfl) (by simp) (by simp)
      (h3.trans h.2.2.2.1) (h4.trans h.2.2.2.2) rfl rfl

/-- The port's reply goes with a move (R179). -/
theorem moves.replied {s u t : State} {a : Addr} {b : Binding} {g : List Addr} (h : moves s u t a b g)
    (status : HostStatus) (data : List Byte) : moves s (u.replied status data) (t.replied status data) a b g := by
  obtain ⟨h1, h2, h3, h4, h5, h6, h7, h8, h9, h10, h11, h12⟩ := h.fields
  apply moves_intro
  · simp [State.replied, h1, h2, h3, h4, h5, h6, h7, h8, h9, h10, h11, h12]
  · simpa [State.replied] using h.2.1
  · intro d hd; simpa [State.replied] using h.2.2.1 d hd
  · have := h.2.2.2
    unfold counted at *
    rw [changedRecords_congr (t' := t) (s' := s) (fun _ => rfl) (fun _ => rfl) (by simp [State.replied]) (by simp [State.replied])]
    simpa [State.replied] using this

/-- The reply to a request goes with a move (R36). -/
theorem moves.handReply {s u t : State} {a : Addr} {b : Binding} {g : List Addr} (h : moves s u t a b g)
    (seg : Segment) (f : Frame) : moves s (u.handReply seg f) (t.handReply seg f) a b g := by
  obtain ⟨h1, h2, h3, h4, h5, h6, h7, h8, h9, h10, h11, h12⟩ := h.fields
  have hc := State.handReply_congr seg f h5 h8
  apply moves_intro
  · refine ⟨?_, ?_, ?_, ?_, ?_, ?_, ?_, ?_, ?_, ?_, ?_, ?_⟩ <;> first | simpa using ‹_› | skip
    · exact hc.1
    · exact hc.2
  · simpa using h.2.1
  · intro d hd; simpa using h.2.2.1 d hd
  · have := h.2.2.2
    unfold counted at *
    rw [changedRecords_congr (t' := t) (s' := s) (fun _ => rfl) (fun _ => rfl) (by simp) (by simp)]
    simpa using this

/-- A move counted from the state with a slot freed is counted from the state before. -/
theorem moves.of_freed {s u t : State} {a : Addr} {b : Binding} {g : List Addr} {seg : Segment} {rest : List Frame}
    (h : moves (s.freed seg rest) u t a b g) : moves s u t a b g := by
  refine ⟨h.1, h.2.1, fun d hd => by simpa using h.2.2.1 d hd, ?_⟩
  have := h.2.2.2
  unfold counted at *
  rw [changedRecords_congr (t' := t) (s' := s) (by simp) (by simp) (fun _ => rfl) (fun _ => rfl)] at this
  simpa [State.recordChanges] using this

/-- The reply cached in the record goes with a move (R43). -/
theorem moves.cacheReply {s u t : State} {a : Addr} {h : Holder} {l : Lease} {v : Bool} {p : Option Replay} {g : List Addr}
    (hm : moves s u t a (.bound h l v p) g) (r : Replay) :
    moves s u (t.cacheReply a r) a (.bound h l v (some r)) g := by
  obtain ⟨h1, h2, h3, h4, h5, h6, h7, h8, h9, h10, h11, h12⟩ := hm.fields
  apply moves_intro
  · simp [h1, h2, h3, h4, h5, h6, h7, h8, h9, h10, h11, h12]
  · rw [State.cacheReply_binding, hm.2.1]
  · intro d hd; simpa [hd] using hm.2.2.1 d hd
  · have := hm.2.2.2
    unfold counted at *
    rw [changedRecords_congr (t' := t) (s' := s) (fun _ => rfl) (fun _ => rfl) (by simp) (by simp)]
    simpa using this

/-- Freeing a slot and abandoning listings are done in either order. -/
theorem State.withoutListingsOf_freed (a : Addr) (seg : Segment) (rest : List Frame) (s : State) :
    (s.freed seg rest).withoutListingsOf a = (s.withoutListingsOf a).freed seg rest := by
  have hl : ∀ k, ((s.freed seg rest).withoutListingsOf a).line k = ((s.withoutListingsOf a).freed seg rest).line k := by
    intro k
    rw [(State.withoutListingsOf_units a _ k).1]
    simp only [State.freed, State.setLine_keeps, State.line_setLine, (State.withoutListingsOf_units a s _).1]
    by_cases hk : k = seg
    · subst hk; simp only [if_true]; split <;> rfl
    · simp only [hk, if_false]
  have hk : ∀ k, ((s.freed seg rest).withoutListingsOf a).listing k = ((s.withoutListingsOf a).freed seg rest).listing k := by
    intro k
    rw [(State.withoutListingsOf_units a _ k).2]
    simp only [State.freed_keeps, (State.withoutListingsOf_units a s k).2]
  apply State.ext_fields <;> simp [hl, hk]

/-- What a binding given up comes to, seen from the state before the slot was freed. -/
theorem givesUp.of_freed {s u t : State} {a : Addr} {h : Holder} {l : Lease} {v : Bool} {seg : Segment} {rest : List Frame}
    (hg : givesUp (s.freed seg rest) u t a h l v) : givesUp s u t a h l v := by
  have he : (s.freed seg rest).entriesOf a = s.entriesOf a := by simp [State.entriesOf]
  unfold givesUp goesReserved goesHeldWith goesFreeTail leavesQueues membershipsDropped membershipsKept at *
  simp only [State.freed_keeps, he] at hg
  split
  · rename_i hv
    rw [if_pos hv] at hg
    exact ⟨hg.1.of_freed, hg.2⟩
  · rename_i hv
    rw [if_neg hv] at hg
    split
    · rename_i hz
      rw [if_pos hz] at hg
      exact ⟨hg.1.of_freed, hg.2⟩
    · rename_i hz
      rw [if_neg hz] at hg
      exact ⟨hg.1.of_freed, hg.2⟩

/-- A move that left the queues and the memberships is a rewriting of the record. -/
theorem moves.rewrites {s u t : State} {a : Addr} {b : Binding} {g : List Addr} (h : moves s u t a b g)
    (hf : t.freeQueue = u.freeQueue) (hh : t.holdQueue = u.holdQueue) (hb : t.boundary = u.boundary)
    (hg : t.groups = u.groups) (hp : t.poolFree = u.poolFree) : Machine.rewrites s u t a b g := by
  refine ⟨?_, h.2⟩
  have := h.1
  rw [hf, hh, hb, hg, hp] at this
  exact this

/-- An executed request that is not cached, seen from the state before its slot was freed (R36). -/
theorem movedTo.deliver {s y x : State} {seg : Segment} {f : Frame} {rest : List Frame} {a : Addr} {b : Binding}
    (h : movedTo (s.freed seg rest) y x a b) (hk : (s.binding a).isBound = true → b.isBound = true) (status : Status)
    (body : List Byte) (g : List Addr) :
    moves s (y.handReply seg (replyTo f status body))
      ((s.freed seg rest).deliver seg f { state := x, status := status, rest := body, granted := g }) a b g :=
  ((h.commit_kept g (by simpa using hk)).handReply seg (replyTo f status body)).of_freed

/-- A reply is handed over the same whatever the admission queue. -/
theorem State.handReply_admission (seg : Segment) (f : Frame) (q : List AdmissionEntry) (s : State) :
    ({ s with admission := q } : State).handReply seg f = { s.handReply seg f with admission := q } := by
  have hl : ({ s with admission := q } : State).line seg = s.line seg := State.line_eq rfl rfl seg
  unfold State.handReply
  rw [hl]
  by_cases h1 : (s.line seg).line.isDisabled = true
  · simp [h1]
  · by_cases h2 : (s.line seg).queue.length < Config.transmitPlaces
    · cases seg <;> simp [h1, h2, State.setLine]
    · by_cases h3 : (s.line seg).queue.any QueuedFrame.isNotice = true
      · simp only [h1, h2, h3, if_true, if_false]
        cases seg <;> rfl
      · simp [h1, h2, h3]

/-- An offer made, seen from the state before the slot was freed (R10, R61, R63). -/
theorem offers_of {s x : State} {seg : Segment} {f : Frame} {rest : List Frame} {a : Addr} {h : Holder} {o : Origin}
    (hm : movedTo (s.freed seg rest) ((s.freed seg rest).removeEntry h.identity) x a
      (.offered h o (Countdown.fresh (s.freed seg rest).policy.offerWindow)))
    (hk : (s.binding a).isBound = false) (hf : x.freeQueue = dropAddr a s.freeQueue)
    (hh : x.holdQueue = dropAddr a s.holdQueue) (body : List Byte) :
    offers s (s.answered seg f rest .ok body)
      ((s.freed seg rest).deliver seg f { state := x, status := .ok, rest := body }) a h o := by
  refine ⟨?_, ?_, ?_⟩
  · have := hm.deliver (f := f) (by simp [hk]) .ok body []
    unfold State.removeEntry at this
    rw [State.handReply_admission] at this
    simpa [State.answered] using this
  · simpa [State.deliver] using hf
  · simpa [State.deliver] using hh

end Sys2Proof.Machine
end

