-- ==== Sys2Proof/Laws/Identities.lean ====
section
/-! SUPPORT. Where an identity stands and what the searches for it find (R6, R55, R106, R187), and what ASK and CLAIM come
to when it is known where the identity stands. -/

namespace Sys2Proof.Machine

/-! ### Searches -/

theorem party_unique {s : State} (h : s.IdentitiesStandOnce) {a b : Addr} {x : Identity} (ha : x ∈ (s.binding a).parties)
    (hb : x ∈ (s.binding b).parties) : b = a := by
  apply Classical.byContradiction
  intro hne
  exact h.2 b a hne x hb ha

theorem Binding.stands_iff {x : Identity} {b : Binding} : b.stands x = true ↔ x ∈ b.parties := by
  cases b <;> simp [Binding.stands, Binding.identity?, Binding.challenger?, Binding.parties] <;>
    first
    | exact eq_comm
    | (constructor <;> (intro h; rcases h with h | h <;> simp [h]))

theorem Binding.movedBy_iff {x : Identity} {b : Binding} : b.movedBy x = true ↔ x ∈ b.parties ∧ b.state ≠ .held := by
  simp [Binding.movedBy, Binding.stands_iff]

theorem isHeldBy_iff {x : Identity} {b : Binding} : isHeldBy x b = true ↔ x ∈ b.parties ∧ b.state = .held := by
  cases b with
  | held o r => cases o <;> simp [isHeldBy, Binding.parties, Binding.state, eq_comm]
  | free | reserved _ | offered _ _ _ | bound _ _ _ _ | contested _ _ _ _ _ _ => simp [isHeldBy, Binding.state]

theorem reservable_iff {x : Identity} {b : Binding} :
    reservable x b = true ↔ (b = .free ∨ ∃ h k, b = .held (some h) k ∧ h.identity = x) := by
  cases b with
  | held o r => cases o <;> simp [reservable]
  | free | reserved _ | offered _ _ _ | bound _ _ _ _ | contested _ _ _ _ _ _ => simp [reservable]

/-- The six searches of ASK look for a party (R55). -/
theorem search_party {x : Identity} {b : Binding} {p : Identity → Binding → Bool}
    (hp : p = isReservedFor ∨ p = isHeldBy ∨ p = isOfferedTo ∨ p = isBoundTo ∨ p = isIncumbent ∨ p = isChallenger)
    (h : p x b = true) : x ∈ b.parties := by
  rcases hp with rfl | rfl | rfl | rfl | rfl | rfl
  all_goals
    cases b with
    | held o r => cases o <;> simp_all [isReservedFor, isHeldBy, isOfferedTo, isBoundTo, isIncumbent, isChallenger,
        Binding.challenger?, Binding.parties]
    | free | reserved _ | offered _ _ _ | bound _ _ _ _ | contested _ _ _ _ _ _ =>
      simp_all [isReservedFor, isHeldBy, isOfferedTo, isBoundTo, isIncumbent, isChallenger, Binding.challenger?,
        Binding.parties]

theorem search_none {s : State} {x : Identity} (h : ∀ a, x ∉ (s.binding a).parties) {p : Identity → Binding → Bool}
    (hp : p = isReservedFor ∨ p = isHeldBy ∨ p = isOfferedTo ∨ p = isBoundTo ∨ p = isIncumbent ∨ p = isChallenger) : s.findBinding (p x) = none := by
  apply State.findBinding_none
  intro a
  cases hc : p x (s.binding a) with
  | false => rfl
  | true => exact absurd (search_party hp hc) (h a)

theorem search_at {s : State} {x : Identity} {a : Addr} (hs : s.IdentitiesStandOnce) (ha : x ∈ (s.binding a).parties)
    {p : Identity → Binding → Bool}
    (hp : p = isReservedFor ∨ p = isHeldBy ∨ p = isOfferedTo ∨ p = isBoundTo ∨ p = isIncumbent ∨ p = isChallenger) :
    s.findBinding (p x) = if p x (s.binding a) then some a else none := by
  split
  · rename_i h
    exact State.findBinding_of_unique h (fun b hb => party_unique hs ha (search_party hp hb))
  · rename_i h
    apply State.findBinding_none
    intro b
    cases hc : p x (s.binding b) with
    | false => rfl
    | true =>
      have := party_unique hs ha (search_party hp hc)
      subst this
      exact absurd hc h

theorem State.findElsewhere_none {s : State} {p : Binding → Bool} {a : Addr}
    (h : ∀ b, b ≠ a → p (s.binding b) = false) : s.findElsewhere p a = none := by
  simp only [State.findElsewhere, List.find?_eq_none]
  intro b _ hb
  simp only [Bool.and_eq_true, decide_eq_true_eq] at hb
  rw [h b hb.1] at hb
  exact Bool.noConfusion hb.2

theorem State.findElsewhere_some {s : State} {p : Binding → Bool} {a b : Addr} (hb : b ≠ a)
    (hp : p (s.binding b) = true) (hu : ∀ c, c ≠ a → p (s.binding c) = true → c = b) : s.findElsewhere p a = some b := by
  unfold State.findElsewhere
  cases h : allAddrs.find? (fun c => decide (c ≠ a) && p (s.binding c)) with
  | none =>
    have := List.find?_eq_none.mp h b (mem_allAddrs b)
    simp [hb, hp] at this
  | some c =>
    have := List.find?_some h
    simp only [Bool.and_eq_true, decide_eq_true_eq] at this
    exact congrArg some (hu c this.1 this.2)

/-- An identity with no HELD binding elsewhere leaves nothing anonymous (R108). -/
theorem State.forgetElsewhere_none {s : State} {x : Identity} {a : Addr} (h : ∀ b, b ≠ a → x ∉ (s.binding b).parties) :
    s.forgetElsewhere x a = s := by
  unfold State.forgetElsewhere
  rw [State.findElsewhere_none]
  intro b hb
  cases hc : isHeldBy x (s.binding b) with
  | false => rfl
  | true => exact absurd (isHeldBy_iff.1 hc).1 (h b hb)

theorem State.makeAnonymous_of {s : State} {a : Addr} {h : Holder} {r : Countdown} (hB : s.binding a = .held (some h) r) :
    s.makeAnonymous a = (s.setBinding a (.held none r)).dropMember a := by
  simp [State.makeAnonymous, hB]

theorem State.makeAnonymous_same {s : State} {a : Addr} (hB : ∀ h r, s.binding a ≠ .held (some h) r) :
    s.makeAnonymous a = s := by
  unfold State.makeAnonymous
  split
  · rename_i hb; exact absurd hb (hB _ _)
  all_goals rfl

/-! ### The slot that is freed moves no identity -/

theorem State.once_freed {s : State} (h : s.IdentitiesStandOnce) (seg : Segment) (rest : List Frame) :
    (s.freed seg rest).IdentitiesStandOnce := by
  unfold State.IdentitiesStandOnce at *; simpa using h

@[simp] theorem State.offeredCount_freed (s : State) (seg : Segment) (rest : List Frame) :
    (s.freed seg rest).offeredCount = s.offeredCount := by
  simp [State.offeredCount, State.countBindings]

@[simp] theorem State.findBinding_freed (p : Binding → Bool) (seg : Segment) (rest : List Frame) (s : State) :
    (s.freed seg rest).findBinding p = s.findBinding p := by
  simp [State.findBinding]

@[simp] theorem State.matchesFrom_freed (filter : Byte) (next : Nat) (seg : Segment) (rest : List Frame) (s : State) :
    (s.freed seg rest).matchesFrom filter next = s.matchesFrom filter next := by
  simp [State.matchesFrom]

theorem State.newFrom_freed {s : State} {f : Frame} {a : Addr} (hn : s.newFrom f a) (seg : Segment) (rest : List Frame) :
    (s.freed seg rest).newFrom f a :=
  ⟨hn.1, by simpa using hn.2.1, by simpa using hn.2.2⟩

/-! ### ASK -/

theorem runAsk_running {s : State} {seg : Segment} {b : Identity × Byte × Tag} (hp : s.phase = .running)
    (hb : b.1 ∉ s.barred) : runAsk seg b s = decideAsk ⟨b.1, b.2.1, b.2.2, seg⟩ s := by
  simp [runAsk, hp, State.isBarred, hb]

/-- An identity that stands nowhere is answered by the admission mode (R55, R62, R63). -/
theorem decideAsk_nowhere {s : State} {h : Holder} (hn : ∀ a, h.identity ∉ (s.binding a).parties) :
    decideAsk h s = continueAsk h s := by
  simp [decideAsk, search_none hn]

theorem State.ownAddr_nowhere {s : State} {x : Identity} (hn : ∀ a, x ∉ (s.binding a).parties) : s.ownAddr x = none := by
  simp [State.ownAddr, search_none hn]

theorem State.offerLease_field (s : State) (o : Origin) :
    (s.offerLease o).grantedField =
      (match o with | .reserved .permanent => 0 | .reserved .timed | .free | .held => s.policy.defaultLease) := by
  rcases o with _ | _ | _ | _ <;> simp [State.offerLease, State.freshLease, Lease.grantedField, Lease.grant]

theorem State.keeperLease_eq (s : State) (l : Lease) (v : Bool) : s.freshLease v l.kind = s.keeperLease l v := by
  unfold State.freshLease State.keeperLease
  by_cases h : v = true <;> by_cases h2 : l.kind = .permanent <;> simp [h, h2, Lease.grant, Countdown.fresh]

/-! ### CLAIM -/

/-- A claimant that is not barred and stands elsewhere in HELD bindings alone is answered by the state of the claimed
address (R106). -/
theorem runClaim_at {s : State} {seg : Segment} {a : Addr} {x : Identity} {c : Byte} (hb : x ∉ s.barred)
    (hn : ∀ b, b ≠ a → x ∈ (s.binding b).parties → (s.binding b).state = .held) :
    runClaim seg a (x, c) s = claimAt a x c seg s := by
  have : s.findElsewhere (Binding.movedBy x) a = none := by
    apply State.findElsewhere_none
    intro b hb'
    cases hc : (s.binding b).movedBy x with
    | false => rfl
    | true => exact absurd (hn b hb' (Binding.movedBy_iff.1 hc).1) (Binding.movedBy_iff.1 hc).2
  simp [runClaim, State.isBarred, hb, this]

end Sys2Proof.Machine
end

