-- ==== Sys2Proof/Laws/Commands.lean ====
section
/-! SUPPORT. What a host command comes to (R179), what an expiry that is not due comes to (R79), what a run of
commands on one line comes to (R158), and the cases of a listing's sends, of an exchange and of a removed notice. -/

namespace Sys2Proof.Machine

/-! ### Host commands -/

theorem State.complete_eq (s x : State) (status : HostStatus) (data : List Byte) (g : List Addr) :
    s.complete { state := x, status := status, data := data, granted := g } = (commit s g x).replied status data := rfl

/-- A command whose parameters are accepted runs (R179). -/
theorem State.runCommand_param {α : Type} {s : State} {k : Byte} {ps : List Byte} (h : s.executing k ps)
    {parse : List Byte → Option α} {x : α} (hx : parse ps = some x) (run : α → State → HostAnswer) :
    s.runCommand (isCode k) (withParams parse run) = s.complete (run x s) := by
  rw [State.runCommand_executing h (by simp [isCode])]
  simp [withParams, hx]

/-- A command whose parameters are not accepted is answered BAD-PARAMETER (R179). -/
theorem State.runCommand_bad {α : Type} {s : State} {k : Byte} {ps : List Byte} (h : s.executing k ps)
    {parse : List Byte → Option α} (hx : parse ps = none) (run : α → State → HostAnswer) :
    s.runCommand (isCode k) (withParams parse run) = s.replied .badParameter [] := by
  rw [State.runCommand_executing h (by simp [isCode])]
  simp [withParams, hx]

/-- An application that changes neither table nor groups counts nothing and abandons nothing. -/
theorem commit_quiet {s x : State} (hb : ∀ a, x.binding a = s.binding a) (hg : ∀ g, x.group g = s.group g) :
    commit s [] x = x := by
  rw [commit_of_bound (by intro a h; rw [hb]; exact h)]
  have hcr : changedRecords s x [] = [] := by
    rw [changedRecords_congr (s' := s) (t' := s) (by simp) (by simp) (by simp [hb]) (by simp [hg])]
    simp
  rw [hcr, State.recordChanges_nil]

theorem State.expel_state (s : State) (a : Addr) (h : Holder) (l : Lease) (v : Bool) :
    (s.expel h l v a).binding a =
      if v then .reserved (h.reservation l.kind)
      else if s.policy.holdPeriod = 0 then .free else .held none (Countdown.fresh s.policy.holdPeriod) := by
  unfold State.expel; split <;> simp [State.goHeldAnonymous_binding]

theorem State.expel_code (s : State) (a : Addr) (h : Holder) (l : Lease) (v : Bool) :
    ((s.expel h l v a).binding a).state.code = if v then 1 else if s.policy.holdPeriod = 0 then 0 else 4 := by
  rw [State.expel_state]
  split
  · rfl
  · split <;> rfl

theorem State.expel_unbound (s : State) (a : Addr) (h : Holder) (l : Lease) (v : Bool) :
    ((s.expel h l v a).binding a).isBound = false := by
  rw [State.expel_state]
  split
  · rfl
  · split <;> rfl

theorem State.revoke_code (s : State) (a : Addr) (h : Holder) (o : Origin) :
    ((s.revokeOffer h o a).binding a).state.code =
      match o with
      | .free => 0
      | .held => (if s.policy.holdPeriod = 0 then 0 else 4)
      | .reserved _ => 1 := by
  by_cases hz : s.policy.holdPeriod = 0 <;> cases o <;>
    simp [State.revokeOffer, State.goHeldAnonymous_binding, Binding.state, BindingState.code, hz]

/-- A granted record that changed anyway counts once (R25). -/
theorem moves_granted {s u t : State} {a : Addr} {b : Binding} (hne : (s.binding a).record ≠ b.record)
    (h : moves s u t a b [a]) : moves s u t a b [] := by
  refine ⟨h.1, h.2.1, h.2.2.1, ?_⟩
  have hc : changedRecords s t [a] = changedRecords s t [] := by
    unfold changedRecords
    congr 2
    apply List.filter_congr
    intro c _
    by_cases hca : c = a
    · subst hca; simp [bindingChanged, h.2.1, hne]
    · simp [bindingChanged, hca]
  have := h.2.2.2
  unfold counted at *
  rw [hc] at this
  exact this

/-! ### Timers -/

theorem State.expireBinding_same {s : State} {a : Addr} (h : (s.binding a).due = false) : s.expireBinding a = s := by
  unfold State.expireBinding State.lapseOffer State.expireLease State.expireHold State.expireContest
  cases hB : s.binding a with
  | free => rfl
  | reserved r => rfl
  | offered h' o r => rw [hB] at h; simp [Binding.due] at h; simp [h]
  | bound h' l v p => rw [hB] at h; cases l <;> simp [Binding.due] at h <;> simp [h]
  | held o r => rw [hB] at h; simp [Binding.due] at h; simp [h]
  | contested h' l v p c k => rw [hB] at h; cases k <;> simp [Binding.due] at h <;> simp [h]

/-- No expiry is outstanding: there is nothing to settle at the boundary (R79; log 3). -/
theorem State.settleDue_same {s : State} (h1 : ∀ a, (s.binding a).due = false)
    (h2 : ∀ e ∈ s.admission, e.wait.due = false) (h3 : ∀ r, s.phase = .recall r → r.due = false) : s.settleDue = s := by
  have hf : allAddrs.foldl (fun t a => t.expireBinding a) s = s := by
    generalize allAddrs = l
    induction l with
    | nil => rfl
    | cons a l ih => simp [List.foldl, State.expireBinding_same (h1 a), ih]
  have ha : s.admission.filter (fun e => !e.wait.due) = s.admission := by
    rw [List.filter_eq_self]; intro e he; simp [h2 e he]
  unfold State.settleDue
  rw [hf]
  show ({ s with admission := s.admission.filter (fun e => !e.wait.due) } : State).expireRecall = s
  rw [ha]
  show s.expireRecall = s
  unfold State.expireRecall
  split
  · rename_i r hp; simp [h3 r hp]
  · rfl
  · rfl

theorem State.binding_tick (s : State) (a : Addr) : s.tick.binding a = (s.binding a).tick := by
  simp [State.tick, State.binding]

theorem State.atAddress_run {s : State} {act : Addr → State → State} {b : Byte} {a : Addr} (hr : s.inReset = none)
    (hp : s.phase.isStopped = false) (hb : addrOf? b = some a) : s.atAddress act b = act a s := by
  simp [State.atAddress, State.timersRun, hr, hp, hb]

/-! ### Lines -/

theorem restState_eq (q : List QueuedFrame) : restState q = waitState q := by cases q <;> rfl

theorem Controller.frameOver_eq (c : Controller) : c.leaveReceiving = c.frameOver := by
  simp [Controller.leaveReceiving, Controller.frameOver, Controller.afterFrame, Config.frameEndIdle, restState_eq]

theorem LineState.isDisabled_iff (l : LineState) : l.isDisabled = true ↔ l = .disabled := by
  cases l <;> simp [LineState.isDisabled]

theorem State.setLine_setLine (seg : Segment) (c d : Controller) (s : State) :
    (s.setLine seg c).setLine seg d = s.setLine seg d := by cases seg <;> rfl

theorem runs_append {l m : List Instr} {s t : State} : runs (l ++ m) s t ↔ ∃ u, runs l s u ∧ runs m u t := by
  induction l generalizing s with
  | nil => simp [runs]
  | cons c l ih =>
    simp only [List.cons_append, runs, ih]
    constructor
    · rintro ⟨u, h1, v, h2, h3⟩; exact ⟨v, ⟨u, h1, h2⟩, h3⟩
    · rintro ⟨v, ⟨u, h1, h2⟩, h3⟩; exact ⟨u, h1, v, h2, h3⟩

/-! ### Listings -/

theorem State.buildFrame_congr {s t : State} (hb : ∀ a, s.binding a = t.binding a) (hg : s.generation = t.generation)
    (f : Byte) (n i : Nat) (g : BitVec 32) : s.buildFrame f n i g = t.buildFrame f n i g := by
  have : ∀ x y, s.matchesFrom x y = t.matchesFrom x y := by intro x y; simp [State.matchesFrom, hb]
  unfold State.buildFrame
  rw [this, hg]

theorem listingEntry_address {filter : Byte} {a : Addr} {b : Binding} {e : ListingEntry}
    (h : listingEntry? filter a b = some e) : e.address = a := by
  cases b <;> simp [listingEntry?] at h <;> simp [← h.2]

theorem State.mem_matchesFrom (s : State) (filter : Byte) (next : Nat) (e : ListingEntry) :
    e ∈ s.matchesFrom filter next ↔
      next ≤ e.address.val + 1 ∧ listingEntry? filter e.address (s.binding e.address) = some e := by
  unfold State.matchesFrom
  simp only [List.mem_filterMap, List.mem_filter, mem_allAddrs, true_and, decide_eq_true_eq]
  constructor
  · rintro ⟨a, h1, h2⟩
    have := listingEntry_address h2
    subst this
    exact ⟨h1, h2⟩
  · rintro ⟨h1, h2⟩; exact ⟨_, h1, h2⟩

/-- The next address, by the fourth entry of the frame as the unit builds it (R132). -/
theorem nextAfter_buildFrame (s : State) (filter : Byte) (next index old : Nat) (g : BitVec 32) :
    nextAfter (s.buildFrame filter next index g) old =
      match (s.buildFrame filter next index g).endFlag, (s.buildFrame filter next index g).entries[3]? with
      | false, some e => e.address.val + 2
      | _, _ => old := by
  unfold nextAfter
  cases he : (s.buildFrame filter next index g).endFlag
  · have hl : (s.buildFrame filter next index g).entries.length = 4 := by
      have he' := of_decide_eq_false he
      simp only [Config.listingEntries] at he'
      simp [State.buildFrame, Config.listingEntries]; omega
    rw [if_neg (by simp), List.getLast?_eq_getElem?, hl]
    cases (s.buildFrame filter next index g).entries[3]? <;> rfl
  · simp

theorem State.setListing_setListing (seg : Segment) (l k : Option Listing) (s : State) :
    (s.setListing seg l).setListing seg k = s.setListing seg k := by cases seg <;> rfl

/-- A send of the frame of a listing that has a place in the queue (R52). -/
theorem State.sendListing_joins {seg : Segment} {s : State} {l : Listing} (hl : s.listing seg = some l)
    (he : (s.line seg).line.isDisabled = false) (hq : (s.line seg).queue.length < Config.transmitPlaces) :
    s.sendListing seg =
      (s.setListing seg (some { l with timer := none })).setLine seg
        ((s.line seg).joinQueue ⟨.listing true, l.frame⟩) := by
  simp [State.sendListing, hl, he, hq]

/-- A send that is dropped, which is its send end (R52, R133). -/
theorem State.sendListing_dropped {seg : Segment} {s : State} {l : Listing} (hl : s.listing seg = some l)
    (h : (s.line seg).line.isDisabled = true ∨ Config.transmitPlaces ≤ (s.line seg).queue.length) :
    s.sendListing seg = s.setListing seg (some { l with timer := some Config.ackTimeout }) := by
  rcases h with h | h
  · simp [State.sendListing, hl, h, State.sendEnd]
  · simp [State.sendListing, hl, Nat.not_lt.mpr h, State.sendEnd]

/-! ### Exchanges -/

/-- An exchange that is in progress ends with what its kind does (R173). -/
theorem State.exchange_ends {kind : ExchangeKind} {finish : Byte → List Byte → State → State} {s : State} {status : Byte}
    {mosi : List Byte} (hr : s.inReset = none) (hs : s.port.selected = some status) (hk : exchangeKind mosi = kind) :
    s.exchange kind finish (.ends mosi) = finish status mosi s := by
  simp [State.exchange, hr, hs, hk]

/-- Outside a reset the fall of CSn builds the status byte, whatever the row, unless an exchange is in progress (R174). -/
theorem State.exchange_begins {kind : ExchangeKind} {finish : Byte → List Byte → State → State} {s : State}
    (hr : s.inReset = none) : s.exchange kind finish .begins = s.beginExchange := by
  simp [State.exchange, hr]

/-! ### Transmit queues -/

/-- The oldest notice is the one taken out (R50). -/
theorem dropOldestNotice_append {front back : List QueuedFrame} {n : QueuedFrame} (hn : n.isNotice = true)
    (hf : ∀ q ∈ front, q.isNotice = false) : dropOldestNotice (front ++ n :: back) = front ++ back := by
  induction front with
  | nil => simp [dropOldestNotice, hn]
  | cons x xs ih =>
    simp only [List.cons_append, dropOldestNotice, hf x (by simp)]
    simp [ih (fun q hq => hf q (by simp [hq]))]

/-- A notice behind the head leaves the queue and nothing else of the controller changes (R50). -/
theorem Controller.removeNotice_behind {c : Controller} {x n : QueuedFrame} {front back : List QueuedFrame}
    (hq : c.queue = x :: (front ++ n :: back)) (hx : x.isNotice = false) (hn : n.isNotice = true)
    (hf : ∀ q ∈ front, q.isNotice = false) : c.removeNotice = { c with queue := x :: (front ++ back) } := by
  simp [Controller.removeNotice, hq, hx, dropOldestNotice_append hn hf]

/-! ### Addresses that stand in no queue -/

theorem State.not_queued {s : State} (hq : s.QueuesAgree) {a : Addr} (hb : (s.binding a).isBound = true) :
    a ∉ s.freeQueue ∧ a ∉ s.holdQueue := by
  have := hq a
  have h1 : (s.binding a).state ≠ .free := by cases hB : s.binding a <;> simp_all [Binding.isBound, Binding.state]
  have h2 : (s.binding a).state ≠ .held := by cases hB : s.binding a <;> simp_all [Binding.isBound, Binding.state]
  simp only [h1, h2, if_false] at this
  exact ⟨List.count_eq_zero.mp this.1, List.count_eq_zero.mp this.2⟩

end Sys2Proof.Machine
end

