-- ==== Sys2Proof/WellFormed.lean ====
section
/-! DEFINITION. The checks on a command's operands that its type does not make: a short address lies in 0x01 to 0x60,
an identity is neither all 0x00 nor all 0xFF, a read-back position lies in a frame, and the bytes of an SPI exchange
are of the kind the row names (R173). A command that fails its check names nothing the block could be given; its
meaning leaves the state as it is (log 1). -/

namespace Sys2Proof

/-- The check of one command's operands. -/
def Instr.wellFormed : Instr → Bool
  | .offerLapse a => (Machine.addrOf? a).isSome
  | .leaseExpiry a => (Machine.addrOf? a).isSome
  | .holdExpiry a => (Machine.addrOf? a).isSome
  | .contestExpiry a => (Machine.addrOf? a).isSome
  | .admissionWaitExpiry i => Machine.validIdentity i
  | .collision _ p _ => decide (p < 47)
  | .statusRead e => Machine.edgeOfKind .statusRead e
  | .fetch e => Machine.edgeOfKind .fetch e
  | .commandFrame e => Machine.edgeOfKind .commandFrame e
  | .ask _ | .take _ | .claim _ | .renew _ | .release _ | .retag _ | .resolve _ | .reverse _ | .find _ | .list _
  | .listAck _ | .join _ | .leave _ | .members _ | .unknownKindFrame _ => true
  | .secondsBoundary | .recallWindowExpiry | .ackTimerExpiry _ => true
  | .characterReceived _ _ | .frameEnd _ | .transmissionStart _ | .backoffExpiry _ | .frameSent _
  | .headFrameCutOff _ => true
  | .unknownCommand | .configureSegment | .enableSegment | .disableSegment | .clearSegmentFlags | .setPolicy
  | .start | .stop | .clear | .readRecord | .findIdentity | .reserve | .unreserve | .evict | .modify
  | .resolveContest | .readAdmission | .approve | .deny | .bar | .unbar | .readBarred | .openGroup | .closeGroup
  | .addMember | .removeMember | .readGroup | .collect | .readFactors | .clearFactors | .setEnables
  | .readStatus => true
  | .powerOnReset | .pinReset | .resetEnd => true

end Sys2Proof
end

