-- ==== Sys2Proof/Tests/Slice0.lean ====
section
/-! SUPPORT. The tests of this model: the checks of WellFormed refuse an ill-formed term each, the CRCs give the check
values of R196 and R200, and for each statement a state and operands meet its hypotheses, clause by clause, at the ends of
their ranges, with the effect that the command then has. -/

namespace Sys2Proof.Tests

set_option Elab.async false

open Sys2Proof.Machine

/-! ### Small states -/

/-- The state a command leaves; the state before it, were it to stop. -/
def after (c : Instr) (s : State) : State :=
  match exec c s with
  | .next t => t
  | .fault _ | .refused _ => s

/-- An identity that ends in `n`. -/
def ident (n : Byte) : Identity := ⟨0x02, 0, 0, 0, 0, n⟩

/-- A holder of class 0x21 on segment A, without a tag. -/
def who (n : Byte) : Holder := ⟨ident n, 0x21, [], .a⟩

def sec (n : Nat) : Countdown := ⟨n, false⟩

/-- A count in its last second, which has ended. -/
def due : Countdown := ⟨1, true⟩

/-- A lease of 600 seconds with 10 left. -/
def lease : Lease := .timed 600 (sec 10)

/-- A binding in BOUND, TIMED, not reserved, without sequence state. -/
def boundTo (n : Byte) : Binding := .bound (who n) lease false none

/-- A contest between two identities, without a contest timer. -/
def contest (n m : Byte) : Binding := .contested (who n) lease false none ⟨ident m, 0x21, .a⟩ none

def resv (n : Byte) : Reservation := ⟨ident n, 0x21, [], .timed⟩

/-- The binding of an address, with the address in the queue its state calls for. -/
def put (a : Addr) (b : Binding) (s : State) : State :=
  let t := (s.setBinding a b).leaveQueues a
  match b with
  | .free => { t with freeQueue := t.freeQueue ++ [a] }
  | .held _ _ => { t with holdQueue := t.holdQueue ++ [a] }
  | .reserved _ | .offered _ _ _ | .bound _ _ _ _ | .contested _ _ _ _ _ _ => t

/-- RUNNING, with segment A enabled and segment B as reset leaves it. -/
def up : State := { State.reset with phase := .running, lineA := { Controller.reset with line := .idle } }

/-- A request from `source` waits in the receive slots of segment A. -/
def req (source kind : Byte) (body : List Byte) : Frame := ⟨0xFE, source, kind, 0x03, body⟩

def got (f : Frame) (s : State) : State := s.setLine .a { s.line .a with ready := [f] }

/-- A host command is in execution. -/
def doing (code : Byte) (ps : List Byte) (s : State) : State :=
  { s with port := { s.port with state := .executing code ps } }

/-- The reply the port holds. -/
def reply (s : State) : Option HostReply :=
  match s.port.state with
  | .ready r => some r
  | .idle | .executing _ _ => none

def onA (c : Controller) (s : State) : State := s.setLine .a c

/-- A TAKE of address 0x60 by identity 1, from 0x00. -/
def whole : Frame := ⟨0xFE, 0, 0x11, 0x03, identityBytes (ident 1) ++ [0x60]⟩

/-- Segment A is in this state, with a frame of each of these classes in its transmit queue. -/
def queued (line : LineState) (cs : List FrameClass) (s : State) : State :=
  onA { s.lineA with line := line, queue := cs.map (fun c => ⟨c, whole⟩) } s

def replies (n : Nat) : List FrameClass := List.replicate n .reply

/-- The last frame handed to the transmit queue of segment A. -/
def sent (s : State) : Option Frame := (s.lineA.queue.getLast?).map (·.frame)

/-! ### WellFormed, decoding, check values -/

theorem test_ill_formed_addresses :
    (Instr.offerLapse 0x00).wellFormed = false ∧ (Instr.offerLapse 0x61).wellFormed = false
      ∧ (Instr.leaseExpiry 0x00).wellFormed = false ∧ (Instr.holdExpiry 0x61).wellFormed = false
      ∧ (Instr.contestExpiry 0xFF).wellFormed = false ∧ (Instr.offerLapse 0x01).wellFormed = true
      ∧ (Instr.contestExpiry 0x60).wellFormed = true := by decide

theorem test_ill_formed_identity :
    (Instr.admissionWaitExpiry ⟨0, 0, 0, 0, 0, 0⟩).wellFormed = false
      ∧ (Instr.admissionWaitExpiry ⟨0xFF, 0xFF, 0xFF, 0xFF, 0xFF, 0xFF⟩).wellFormed = false
      ∧ (Instr.admissionWaitExpiry (ident 1)).wellFormed = true := by decide

theorem test_ill_formed_position :
    (Instr.collision .a 47 ⟨0, false, true⟩).wellFormed = false
      ∧ (Instr.collision .a 46 ⟨0, false, true⟩).wellFormed = true := by decide

theorem test_ill_formed_exchanges :
    (Instr.statusRead (.ends [0x11, 0])).wellFormed = false ∧ (Instr.fetch (.ends [0x00])).wellFormed = false
      ∧ (Instr.commandFrame (.ends [0x11])).wellFormed = false ∧ (Instr.commandFrame (.ends [0x00, 0])).wellFormed = false
      ∧ (Instr.statusRead (.ends [0x11])).wellFormed = true ∧ (Instr.fetch (.ends [0xF0])).wellFormed = true
      ∧ (Instr.commandFrame (.ends [0x11, 0])).wellFormed = true ∧ (Instr.fetch .begins).wellFormed = true := by decide

/-- No row of the table gives bits, so no word spells a command. -/
theorem test_no_word_decodes : decodeTableWord 8 0x10 = none ∧ State.reset.withFetchWord 8 0x10 = State.reset := by
  exact ⟨rfl, rfl⟩

/-- The check values of R196 and R200, over the nine bytes 0x31 to 0x39. -/
theorem test_crc_check_values :
    crc16 [0x31, 0x32, 0x33, 0x34, 0x35, 0x36, 0x37, 0x38, 0x39] = 0x29B1
      ∧ crc8 [0x31, 0x32, 0x33, 0x34, 0x35, 0x36, 0x37, 0x38, 0x39] = 0xF4 := by decide +kernel

/-! ### Queue and resets -/

theorem test_step_runs_the_front :
    step { State.reset with pending := [.pinReset, .resetEnd] } =
        exec .pinReset { State.reset with pending := [.resetEnd] } ∧ step State.reset = .next State.reset :=
  ⟨rfl, rfl⟩

theorem test_resets :
    (after .resetEnd (after .pinReset up)).lastReset = .pin ∧ (after .resetEnd (after .powerOnReset up)).lastReset = .powerOn
      ∧ (after .pinReset up).inReset = some .pin ∧ (after .pinReset up).attn = false
      ∧ after .start (after .pinReset up) = after .pinReset up
      ∧ (Instr.start ≠ .powerOnReset ∧ Instr.start ≠ .pinReset ∧ Instr.start ≠ .resetEnd) := by decide +kernel

def levelsOf (p : TransmitPin) : List Bool :=
  match p with
  | .sending levels => levels
  | .high | .lastCharacter => []

/-- The transmit pin in a reset, with the driver enable low, and while the byte 0x07 goes out with even parity and two stop
bits. -/
theorem test_meets_pins :
    let f : Frame := { whole with destination := 0x07 }
    let s := onA { up.lineA with line := .transmitting false, queue := [⟨.reply, f⟩], format := ⟨.b9600, .even, .two⟩ } up
    (after .pinReset s).inReset = some .pin ∧ (after .pinReset s).transmitPin .a = .high
      ∧ up.inReset = none ∧ up.driverEnabled .a = false ∧ up.transmitPin .a = .high ∧ up.misoDriven = false
      ∧ (s.line .a).line = .transmitting false ∧ (s.line .a).queue = [⟨.reply, f⟩]
      ∧ (levelsOf (s.transmitPin .a)).take 12 =
          [false, true, true, true, false, false, false, false, false, true, true, true]
      ∧ (after (.fetch .begins) up).misoDriven = true
      ∧ (after .pinReset (after (.fetch .begins) up)).misoDriven = false := by decide +kernel

/-! ### Station requests: the tests before execution -/

theorem test_meets_tests_turn_away :
    (got (req 0 0x10 []) { up with phase := .stopped }).phase = .stopped
      ∧ (got (req 5 0x7F []) up).serves .a (req 5 0x7F []) [] ∧ (0x7F : Byte) ∉ requestKinds ∧ (0x7F : Byte).toNat < 0x80
      ∧ (0x80 : Byte) ∉ requestKinds ∧ 0x80 ≤ (0x80 : Byte).toNat
      ∧ wrongSource (req 5 0x10 []) = true ∧ wrongSource (req 0 0x20 []) = true
      ∧ (req 5 0x34 []).kind ∈ kindListAck :: sequenceKinds ∧ addrOf? (5 : Byte) = some 4
      ∧ (up.binding 4).isBound = false
      ∧ (req 5 0x20 [1]).kind ∈ sequenceKinds ∧ (got (req 5 0x20 [1]) (put 4 (boundTo 1) up)).newFrom (req 5 0x20 [1]) 4
      ∧ bodyAccepted (req 5 0x20 [1]) = false
      ∧ wrongSource (req 5 0x12 []) = false ∧ bodyAccepted (req 5 0x12 []) = false := by
  unfold State.serves State.serving State.newFrom; decide +kernel

/-- The replay of a RENEW answered OK, in the record of address 1. -/
def cached : Replay := ⟨3, 0xA0, .ok, [0x58, 0x02]⟩

theorem test_meets_retry :
    let s := got (req 1 0x20 []) (put 0 (.bound (who 1) lease false (some cached)) up)
    s.serves .a (req 1 0x20 []) [] ∧ (req 1 0x20 []).kind ∈ sequenceKinds ∧ addrOf? (1 : Byte) = some 0
      ∧ (s.binding 0).isBound = true ∧ (s.binding 0).replay? = some cached ∧ cached.sequence = (req 1 0x20 []).sequence
      ∧ sent (after (.renew .a) s) = some ⟨1, 0xFE, 0xA0, 3, [0x00, 0x58, 0x02]⟩
      ∧ (after (.renew .a) s).binding 0 = s.binding 0 := by
  unfold State.serves State.serving; decide +kernel

theorem test_meets_contested_source :
    let s := got (req 96 0x22 [0]) (put 95 (contest 1 2) up)
    s.serves .a (req 96 0x22 [0]) [] ∧ (req 96 0x22 [0]).kind ∈ contestedKinds ∧ s.newFrom (req 96 0x22 [0]) 95
      ∧ (s.binding 95).state = .contested ∧ bodyAccepted (req 96 0x22 [0]) = true
      ∧ (sent (after (.retag .a) s)).map (·.body) = some [0x17] := by
  unfold State.serves State.serving State.newFrom; decide +kernel

/-! ### Lookups -/

theorem test_meets_resolve :
    let f := req 0 0x30 (identityBytes (ident 1))
    let s := got f (put 95 (boundTo 1) up)
    s.serves .a f [] ∧ f.kind = kindResolve ∧ f.source = 0 ∧ resolveBody? f.body = some (ident 1)
      ∧ (s.binding 95).holder? = some (who 1)
      ∧ (∀ b, ∀ k ∈ ((s.binding b).holder?).toList, k.identity = ident 1 → b = 95)
      ∧ (∀ a, ∀ h ∈ ((up.binding a).holder?).toList, h.identity ≠ ident 1)
      ∧ (sent (after (.resolve .a) s)).map (·.body) = some (0x00 :: identityBytes (ident 1) ++ [96, 3, 0x21])
      ∧ (sent (after (.resolve .a) (got f up))).map (·.body) = some (0x00 :: identityBytes (ident 1) ++ [0]) := by
  unfold State.serves State.serving; decide +kernel

theorem test_meets_reverse_and_find :
    let f := req 1 0x31 [2]
    let g := req 1 0x32 [0xFF, 1]
    let s := put 0 (boundTo 1) up
    (got f s).serves .a f [] ∧ (got g s).serves .a g [] ∧ f.kind = kindReverse ∧ g.kind = kindFind
      ∧ (got f s).newFrom f 0 ∧ reverseBody? f.body = some 1 ∧ (s.binding 1).isBound = false
      ∧ reverseBody? [1] = some 0 ∧ (s.binding 0).isBound = true ∧ (s.binding 0).holder? = some (who 1)
      ∧ (got g s).newFrom g 0 ∧ searchBody? g.body = some (0xFF, 0)
      ∧ listingEntry? 0xFF 0 (s.binding 0) = some ⟨0, .bound, 0x21, ident 1⟩
      ∧ searchBody? [0xFF, 2] = some (0xFF, 1) ∧ (∀ k, (1 : Addr) ≤ k → listingEntry? 0xFF k (s.binding k) = none)
      ∧ (sent (after (.reverse .a) (got f s))).map (·.body) = some [0x00, 2, 0]
      ∧ (sent (after (.find .a) (got g s))).map (·.body) = some ([0x00, 1, 3, 0x21] ++ identityBytes (ident 1)) := by
  unfold State.serves State.serving State.newFrom; decide +kernel

theorem test_meets_members :
    let f := req 0 0x42 [16]
    let s := (put 0 (boundTo 1) up).setGroup 15 (.opened 12 .stations [0])
    (got f s).serves .a f [] ∧ (got f up).serves .a f [] ∧ f.kind = kindMembers ∧ f.source = 0 ∧ groupBody? f.body = some 15 ∧ up.group 15 = .unused
      ∧ s.group 15 = .opened 12 .stations [0]
      ∧ (sent (after (.members .a) (got f up))).map (·.body) = some [0x20]
      ∧ (sent (after (.members .a) (got f s))).map (·.body) = some [0x00, 16, 1, 1] := by
  unfold State.serves State.serving; decide +kernel

/-! ### Leases, groups and listings from a bound address -/

theorem test_meets_renew :
    let f := req 1 0x20 [9, 0]
    let s := put 0 (boundTo 1) up
    let p := put 0 (.bound (who 1) .permanent true none) up
    (got f s).serves .a f [] ∧ (got f p).serves .a f [] ∧ f.kind = kindRenew
      ∧ (got f s).newFrom f 0 ∧ renewBody? f.body = some 9 ∧ renewBody? [] = some 0 ∧ renewBody? [0xFF, 0xFF] = some 65535
      ∧ s.binding 0 = .bound (who 1) (.timed 600 (sec 10)) false none
      ∧ (got f p).newFrom f 0 ∧ p.binding 0 = .bound (who 1) .permanent true none
      ∧ (sent (after (.renew .a) (got f s))).map (·.body) = some [0x00, 10, 0]
      ∧ (sent (after (.renew .a) (got (req 1 0x20 []) s))).map (·.body) = some [0x00, 0x58, 0x02]
      ∧ (sent (after (.renew .a) (got (req 1 0x20 [0xFF, 0xFF]) s))).map (·.body) = some [0x00, 0x10, 0x0E]
      ∧ (sent (after (.renew .a) (got f p))).map (·.body) = some [0x00, 0, 0] := by
  unfold State.serves State.serving State.newFrom; decide +kernel

theorem test_meets_retag :
    let f := req 1 0x22 [8, 1, 2, 3, 4, 5, 6, 7, 8]
    let s := put 0 (boundTo 1) up
    (got f s).serves .a f [] ∧ f.kind = kindRetag ∧ (got f s).newFrom f 0
      ∧ f.body = BitVec.ofNat 8 8 :: [1, 2, 3, 4, 5, 6, 7, 8]
      ∧ s.binding 0 = .bound (who 1) lease false none
      ∧ (after (.retag .a) (got f s)).generation = 1 ∧ (after (.retag .a) (got f s)).marks = [.addr 0]
      ∧ (after (.retag .a) (got (req 1 0x22 [0]) s)).generation = 0
      ∧ (got f (put 0 (contest 1 2) up)).newFrom f 0 ∧ ((put 0 (contest 1 2) up).binding 0).state = .contested := by
  unfold State.serves State.serving State.newFrom; decide +kernel

theorem test_meets_release :
    let f := req 96 0x21 []
    let s := put 95 (boundTo 1) up
    let v := put 95 (.bound (who 1) lease true none) up
    (got f s).serves .a f [] ∧ f.kind = kindRelease ∧ (got f s).newFrom f 95 ∧ f.body = [] ∧ s.binding 95 = boundTo 1
      ∧ (after (.release .a) (got f s)).binding 95 = .held (some (who 1)) (sec 120)
      ∧ (after (.release .a) (got f s)).holdQueue = [95]
      ∧ (after (.release .a) (got f v)).binding 95 = .reserved (resv 1)
      ∧ (after (.release .a) (got f { s with policy := { s.policy with holdPeriod := 0 } })).binding 95 = .free := by
  unfold State.serves State.serving State.newFrom; decide +kernel

/-- Address 1 is bound, and group 1 is as `r` has it. -/
def inGroup (r : GroupRecord) : State := (put 0 (boundTo 1) up).setGroup 0 r

theorem test_meets_join_and_leave :
    let j := req 1 0x40 [1]
    let l := req 1 0x41 [1]
    (got j (inGroup .unused)).serves .a j [] ∧ (got l (inGroup .unused)).serves .a l [] ∧ j.kind = kindJoin
      ∧ l.kind = kindLeave ∧ (got l (inGroup .unused)).newFrom l 0 ∧ (got j (inGroup .unused)).newFrom j 0 ∧ groupBody? [1] = some 0 ∧ groupBody? [16] = some 15
      ∧ (inGroup .unused).binding 0 = boundTo 1 ∧ (inGroup .unused).group 0 = .unused
      ∧ (inGroup (.opened 2 .hostonly [])).group 0 = .opened 2 .hostonly []
      ∧ (0 : Addr) ∈ [(0 : Addr)] ∧ (0 : Addr) ∉ [(5 : Addr), 6] ∧ (2 : Nat) ≤ [(5 : Addr), 6].length
      ∧ (0 : Addr) ∉ [(5 : Addr)] ∧ [(5 : Addr)].length < 2 ∧ (inGroup .unused).poolFree ≠ 0
      ∧ (sent (after (.join .a) (got j (inGroup .unused)))).map (·.body) = some [0x20]
      ∧ (sent (after (.leave .a) (got l (inGroup (.opened 2 .hostonly []))))).map (·.body) = some [0x24]
      ∧ (sent (after (.join .a) (got j (inGroup (.opened 2 .stations [0]))))).map (·.body) = some [0x00, 1, 1]
      ∧ (sent (after (.join .a) (got j (inGroup (.opened 2 .stations [5, 6]))))).map (·.body) = some [0x21]
      ∧ (sent (after (.join .a) (got j { inGroup (.opened 2 .stations [5]) with poolFree := 0 }))).map (·.body) = some [0x22]
      ∧ (after (.join .a) (got j (inGroup (.opened 2 .stations [5])))).group 0 = .opened 2 .stations [5, 0]
      ∧ (sent (after (.leave .a) (got l (inGroup (.opened 2 .stations [5]))))).map (·.body) = some [0x23]
      ∧ (after (.leave .a) (got l (inGroup (.opened 2 .stations [5, 0])))).group 0 = .opened 2 .stations [5] := by
  unfold State.serves State.serving State.newFrom; decide +kernel

/-- A listing of address 1 on segment A, whose frame 0 waits to be acknowledged. -/
def listed (last : Bool) : Listing :=
  { requester := 0, sequence := 3, filter := 0xFF, next := if last then 1 else 5, startGeneration := 0
    built := ⟨0, last, false, true, 0, []⟩, sends := 1, timer := some 250 }

theorem test_meets_list :
    let f := req 1 0x33 [0xFF, 96]
    let s := got f (put 0 (boundTo 1) up)
    s.serves .a f [] ∧ f.kind = kindList ∧ s.newFrom f 0 ∧ searchBody? f.body = some (0xFF, 95) ∧ (s.binding 0).state = .bound
      ∧ s.listing .a = none ∧ (s.setListing .a (some (listed true))).listing .a ≠ none
      ∧ (sent (after (.list .a) (s.setListing .a (some (listed true))))).map (·.body) = some [0x1A]
      ∧ (((after (.list .a) s).listing .a).map (fun l => (l.requester, l.next, l.sends, l.built.endFlag))) =
          some (0, 96, 1, true)
      ∧ (sent (after (.list .a) s)).map (·.kind) = some 0xB3 := by
  unfold State.serves State.serving State.newFrom; decide +kernel

/-- The LIST of address 1 where its reply leaves the queue one place, none, and on a DISABLED segment. -/
theorem test_meets_list_handover :
    let f := req 1 0x33 [0xFF, 1]
    let s := fun (line : LineState) (n : Nat) => got f (queued line (replies n) (put 0 (boundTo 1) up))
    let u := fun (t : State) => t.answeredCached .a f [] 0 .ok (le32 t.generation)
    (s .waitGap 2).serves .a f [] ∧ (s .waitGap 2).newFrom f 0 ∧ (s .waitGap 2).listing .a = none
      ∧ ((u (s .waitGap 2)).line .a).line ≠ .disabled ∧ ((u (s .waitGap 2)).line .a).queue.length < 4
      ∧ 4 ≤ ((u (s .waitGap 3)).line .a).queue.length ∧ ((u (s .disabled 0)).line .a).line = .disabled
      ∧ ((after (.list .a) (s .waitGap 2)).listing .a).map (·.timer) = some none
      ∧ ((after (.list .a) (s .waitGap 3)).listing .a).map (·.timer) = some (some 250)
      ∧ ((after (.list .a) (s .disabled 0)).listing .a).map (·.timer) = some (some 250)
      ∧ (s .waitGap 2).buildFrame 0xFF 1 0 0 = ⟨0, true, false, false, 0, [⟨0, .bound, 0x21, ident 1⟩]⟩ := by
  unfold State.serves State.serving State.newFrom; decide +kernel

/-- The next address after a frame that holds four of five matches is one more than its fourth entry. -/
theorem test_next_address :
    let s := (put 0 (boundTo 1) (put 9 (boundTo 2) (put 19 (boundTo 3) (put 29 (boundTo 4) (put 95 (boundTo 5) up)))))
    ((after (.list .a) (got (req 1 0x33 [0xFF, 1]) s)).listing .a).map (fun l => (l.next, l.built.endFlag)) =
      some (31, false) := by decide +kernel

theorem test_meets_list_ack :
    let f := req 1 0x34 [0]
    let s := fun (l : Option Listing) => (got f (put 0 (boundTo 1) up)).setListing .a l
    (s none).serves .a f [] ∧ (s (some (listed true))).serves .a f [] ∧ f.kind = kindListAck ∧ addrOf? f.source = some 0 ∧ ((s none).binding 0).isBound = true ∧ (s none).listing .a = none
      ∧ (s (some (listed true))).listing .a = some (listed true) ∧ (listed true).requester = 0
      ∧ (0 : Byte).toNat = (listed true).built.index ∧ (1 : Byte).toNat ≠ (listed true).built.index
      ∧ (listed true).built.endFlag = true ∧ (listed false).built.endFlag = false
      ∧ (after (.listAck .a) (s (some (listed true)))).listing .a = none
      ∧ ((after (.listAck .a) (s (some (listed false)))).listing .a).map (fun l => (l.built.index, l.sends)) = some (1, 1) := by
  unfold State.serves State.serving; decide +kernel

/-- The acknowledgement where the next frame finds a place, a full queue, and a DISABLED segment. -/
theorem test_meets_list_ack_handover :
    let f := req 1 0x34 [0]
    let s := fun (line : LineState) (n : Nat) =>
      (got f (queued line (.listing true :: replies n) (put 0 (boundTo 1) up))).setListing .a (some (listed false))
    let l := fun (t : State) => ((after (.listAck .a) t).listing .a).map (·.timer)
    (s .waitGap 2).serves .a f [] ∧ ((s .waitGap 2).line .a).queue.length < 4 ∧ 4 ≤ ((s .waitGap 3).line .a).queue.length
      ∧ ((s .waitGap 3).line .a).line ≠ .disabled ∧ ((s .disabled 0).line .a).line = .disabled
      ∧ l (s .waitGap 2) = some none ∧ l (s .waitGap 3) = some (some 250) ∧ l (s .disabled 0) = some (some 250)
      ∧ (after (.listAck .a) (s .waitGap 2)).lineA.queue.map (·.cls) =
          [.listing false, .reply, .reply, .listing true] := by
  unfold State.serves State.serving; decide +kernel

/-! ### Admission: ASK and TAKE -/

/-- The ASK of an identity ending in `n`, of class 0x21, without a tag. -/
def ask (n : Byte) : Frame := req 0 0x10 (identityBytes (ident n) ++ [0x21, 0])

def recalling : State := { up with phase := .recall (sec 60) }

def tight (s : State) : State := { s with policy := { s.policy with offerLimit := 0 } }

/-- An offer of address 1 to identity 1. -/
def offer (o : Origin) : Binding := .offered (who 1) o (sec 5)

theorem test_meets_asks_without_offer :
    let f := ask 1
    let s := got f up
    s.serves .a f [] ∧ f.kind = kindAsk ∧ f.source = 0 ∧ askBody? f.body = some (ident 1, 0x21, [])
      ∧ (got f recalling).serves .a f [] ∧ recalling.phase = .recall (sec 60)
      ∧ s.phase = .running ∧ ident 1 ∈ ({ s with barred := [ident 1] } : State).barred ∧ ident 1 ∉ s.barred
      ∧ (∀ a, ident 1 ∉ (s.binding a).parties) ∧ ({ s.policy with mode := .closed } : Policy).mode = .closed
      ∧ s.policy.mode = .open_ ∧ (tight s).policy.offerLimit ≤ (tight s).offeredCount
      ∧ ident 1 ∈ ((put 0 (.reserved (resv 1)) s).binding 0).parties
      ∧ ((put 0 (.reserved (resv 1)) s).binding 0).state = .reserved
      ∧ ident 1 ∈ ((put 0 (.held (some (who 1)) (sec 5)) s).binding 0).parties
      ∧ ((put 0 (.held (some (who 1)) (sec 5)) s).binding 0).state = .held
      ∧ (sent (after (.ask .a) (got f recalling))).map (·.body) = some (0x10 :: identityBytes (ident 1) ++ [60])
      ∧ (sent (after (.ask .a) { s with barred := [ident 1] })).map (·.body) = some (0x13 :: identityBytes (ident 1))
      ∧ (sent (after (.ask .a) { s with policy := { s.policy with mode := .closed } })).map (·.body) =
          some (0x12 :: identityBytes (ident 1))
      ∧ (sent (after (.ask .a) (tight s))).map (·.body) = some (0x10 :: identityBytes (ident 1) ++ [1])
      ∧ (sent (after (.ask .a) (tight (put 0 (.reserved (resv 1)) s)))).map (·.body) =
          some (0x10 :: identityBytes (ident 1) ++ [1]) := by
  unfold State.serves State.serving; decide +kernel

/-- Where the bindings at a few addresses alone are not FREE, it is enough to look at those. -/
theorem stands_once {s : State} (l : List Addr) (ho : ∀ k, k ∉ l → s.binding k = .free)
    (hn : ∀ a ∈ l, (s.binding a).parties.Nodup ∧ ∀ x ∈ (s.binding a).parties, validIdentity x = true)
    (hd : ∀ a ∈ l, ∀ b ∈ l, a ≠ b → ∀ x ∈ (s.binding a).parties, x ∉ (s.binding b).parties) : s.IdentitiesStandOnce := by
  have none : ∀ k, k ∉ l → (s.binding k).parties = [] := fun k hk => by rw [ho k hk]; rfl
  constructor
  · intro k
    by_cases hk : k ∈ l
    · exact hn k hk
    · rw [none k hk]; simp
  · intro k m hkm x hx
    by_cases hk : k ∈ l
    · by_cases hm : m ∈ l
      · exact hd k hk m hm hkm x hx
      · rw [none m hm]; simp
    · rw [none k hk] at hx; simp at hx

theorem test_identities_stand_once :
    (put 0 (boundTo 1) up).IdentitiesStandOnce ∧ (put 0 (offer .free) up).IdentitiesStandOnce
      ∧ (put 0 (.reserved (resv 1)) up).IdentitiesStandOnce ∧ (put 0 (.held (some (who 1)) (sec 5)) up).IdentitiesStandOnce
      ∧ (put 0 (contest 1 2) up).IdentitiesStandOnce := by
  refine ⟨?_, ?_, ?_, ?_, ?_⟩ <;> apply stands_once [0] <;> decide +kernel

theorem test_meets_ask_repeated :
    let f := ask 1
    let b := got f (put 0 (boundTo 1) up)
    let o := got f (put 95 (offer (.reserved .permanent)) up)
    b.serves .a f [] ∧ o.serves .a f [] ∧ b.phase = .running ∧ ident 1 ∉ b.barred ∧ (who 1).identity = ident 1
      ∧ b.binding 0 = boundTo 1 ∧ o.binding 95 = offer (.reserved .permanent)
      ∧ (sent (after (.ask .a) b)).map (·.body) = some (0x02 :: identityBytes (ident 1) ++ [1, 10, 0])
      ∧ (sent (after (.ask .a) o)).map (·.body) = some (0x00 :: identityBytes (ident 1) ++ [96, 0, 0, 5]) := by
  unfold State.serves State.serving; decide +kernel

theorem test_meets_ask_own_address :
    let f := ask 1
    let r := got f (put 95 (.reserved { resv 1 with kind := .permanent }) up)
    let h := got f (put 0 (.held (some (who 1)) (sec 1)) up)
    r.serves .a f [] ∧ h.serves .a f [] ∧ r.offeredCount < r.policy.offerLimit ∧ h.offeredCount < h.policy.offerLimit
      ∧ r.binding 95 = .reserved { resv 1 with kind := .permanent } ∧ h.binding 0 = .held (some (who 1)) (sec 1)
      ∧ (after (.ask .a) r).binding 95 = offer (.reserved .permanent) ∧ (after (.ask .a) h).binding 0 = offer .held
      ∧ (after (.ask .a) h).holdQueue = [] := by
  unfold State.serves State.serving; decide +kernel

/-- Every address is HELD anonymous or, the first, as `b` has it; the free queue is empty. -/
def scarce (b : Binding) : State :=
  { up with table := (Vector.replicate 96 (.held none (sec 9))).set 0 b, freeQueue := [], holdQueue := allAddrs }

theorem test_meets_ask_newcomer :
    let f := ask 1
    (got f up).serves .a f [] ∧ (∀ a, ident 1 ∉ (up.binding a).parties) ∧ up.policy.mode = .open_
      ∧ up.offeredCount < up.policy.offerLimit ∧ up.freeQueue = 0 :: allAddrs.drop 1 ∧ up.binding 0 = .free
      ∧ (scarce (.held (some (who 2)) (sec 1))).freeQueue = []
      ∧ (scarce (.held (some (who 2)) (sec 1))).holdQueue = 0 :: allAddrs.drop 1
      ∧ (scarce (.held (some (who 2)) (sec 1))).binding 0 = .held (some (who 2)) (sec 1)
      ∧ (scarce (.held none (sec 1))).binding 0 = .held none (sec 1)
      ∧ (after (.ask .a) (got f up)).binding 0 = offer .free
      ∧ (after (.ask .a) (got f (scarce (.held (some (who 2)) (sec 1))))).binding 0 = offer .free
      ∧ (after (.ask .a) (got f (scarce (.held none (sec 1))))).binding 0 = offer .free := by
  unfold State.serves State.serving; decide +kernel

theorem test_meets_ask_full :
    let f := ask 1
    let s := got f { scarce .free with holdQueue := [] }
    s.serves .a f [] ∧ (∀ a, ident 1 ∉ (s.binding a).parties) ∧ s.freeQueue = [] ∧ s.holdQueue = []
      ∧ (after (.ask .a) s).factor .exhausted = true
      ∧ (sent (after (.ask .a) s)).map (·.body) = some (0x11 :: identityBytes (ident 1)) := by
  unfold State.serves State.serving; decide +kernel

/-- SUPERVISED, with `n` entries. -/
def supervised (n : Nat) : State :=
  { up with
    policy := { up.policy with mode := .supervised }
    admission := (List.range n).map (fun k => ⟨ident (BitVec.ofNat 8 (k + 1)), 0x21, [], .b, sec 60⟩) }

theorem test_meets_ask_supervised :
    let f := ask 9
    (got f (supervised 7)).serves .a f [] ∧ (∀ a, ident 9 ∉ ((supervised 7).binding a).parties)
      ∧ (supervised 7).policy.mode = .supervised ∧ (∀ e ∈ (supervised 7).admission, e.identity ≠ ident 9)
      ∧ (supervised 7).admission.length < 8 ∧ 8 ≤ (supervised 8).admission.length
      ∧ (∀ e ∈ (supervised 8).admission, e.identity ≠ ident 9) ∧ ∃ e ∈ (supervised 8).admission, e.identity = ident 8 := by
  unfold State.serves State.serving; decide +kernel

theorem test_ask_supervised :
    (after (.ask .a) (got (ask 9) (supervised 7))).admission.length = 8
      ∧ (after (.ask .a) (got (ask 9) (supervised 7))).factor .admitPending = true
      ∧ (after (.ask .a) (got (ask 9) (supervised 8))).admission = (supervised 8).admission
      ∧ ((after (.ask .a) (got (ask 8) (supervised 8))).admission.map (·.segment)).getLast? = some .a := by decide +kernel

theorem test_meets_ask_of_a_contest :
    let s := put 0 (contest 1 2) up
    (got (ask 2) s).serves .a (ask 2) [] ∧ s.phase = .running ∧ ident 2 ∉ s.barred ∧ s.QueuesAgree
      ∧ s.binding 0 = .contested (who 1) lease false none ⟨ident 2, 0x21, .a⟩ none
      ∧ (after (.ask .a) (got (ask 2) s)).binding 0 = boundTo 1 ∧ (after (.ask .a) (got (ask 2) s)).binding 1 =
          .offered (who 2) .free (sec 5)
      ∧ (after (.ask .a) (got (ask 1) s)).binding 0 = .bound (who 2) (.timed 600 (sec 600)) false none := by
  unfold State.serves State.serving; decide +kernel

/-- The TAKE of address 1 by identity `n`. -/
def takes (n : Byte) : Frame := req 0 0x11 (identityBytes (ident n) ++ [1])

theorem test_meets_take :
    let s := got (takes 1) (put 0 (offer (.reserved .permanent)) up)
    let b := got (takes 1) (put 0 (boundTo 1) up)
    s.serves .a (takes 1) [] ∧ b.serves .a (takes 1) [] ∧ takeBody? (takes 1).body = some (ident 1, 0)
      ∧ (got (takes 1) recalling).serves .a (takes 1) [] ∧ recalling.phase.isRecall = true
      ∧ (got (takes 2) s).serves .a (takes 2) []
      ∧ s.binding 0 = offer (.reserved .permanent) ∧ b.binding 0 = boundTo 1
      ∧ (after (.take .a) s).binding 0 = .bound (who 1) .permanent true none
      ∧ (sent (after (.take .a) s)).map (·.body) = some (0x00 :: identityBytes (ident 1) ++ [1, 0, 0])
      ∧ (sent (after (.take .a) (got (takes 2) s))).map (·.body) = some (0x15 :: identityBytes (ident 2))
      ∧ (sent (after (.take .a) (got (takes 1) recalling))).map (·.body) = some (0x15 :: identityBytes (ident 1)) := by
  unfold State.serves State.serving; decide +kernel

/-- Where the binding is neither OFFERED nor BOUND to the identity (R67). -/
theorem test_meets_take_stale :
    (∀ h o r, (put 0 (contest 1 2) up).binding 0 = .offered h o r → h.identity ≠ ident 1)
      ∧ ∀ h l v p, (put 0 (contest 1 2) up).binding 0 = .bound h l v p → h.identity ≠ ident 1 := by
  have hb : (put 0 (contest 1 2) up).binding 0 = contest 1 2 := by decide +kernel
  rw [hb]
  exact ⟨fun _ _ _ h => Binding.noConfusion h, fun _ _ _ _ h => Binding.noConfusion h⟩

/-! ### CLAIM -/

/-- The CLAIM of `address` by identity 1. -/
def claims (address : Byte) : Frame := req address 0x12 (identityBytes (ident 1) ++ [0x21])

theorem test_meets_claim_binds :
    let f := claims 96
    let at95 := fun (b : Binding) => got f (put 95 b up)
    (got f up).serves .a f [] ∧ f.kind = kindClaim ∧ addrOf? f.source = some 95 ∧ claimBody? f.body = some (ident 1, 0x21)
      ∧ ident 1 ∉ up.barred ∧ (∀ b, b ≠ 95 → ident 1 ∉ (up.binding b).parties) ∧ up.binding 95 = .free
      ∧ recalling.phase.isRecall = true ∧ up.policy.mode = .open_
      ∧ (at95 (.reserved (resv 1))).binding 95 = .reserved (resv 1) ∧ (at95 (offer .held)).binding 95 = offer .held
      ∧ (at95 (.held (some (who 1)) (sec 1))).binding 95 = .held (some (who 1)) (sec 1)
      ∧ (after (.claim .a) (got f up)).binding 95 = .bound (who 1) (.timed 600 (sec 600)) false none
      ∧ (after (.claim .a) (at95 (.reserved (resv 1)))).binding 95 = .bound (who 1) (.timed 600 (sec 600)) true none
      ∧ (after (.claim .a) (at95 (offer .held))).binding 95 = .bound (who 1) (.timed 600 (sec 600)) false none
      ∧ (sent (after (.claim .a) (at95 (.held (some (who 1)) (sec 1))))).map (·.body) =
          some (0x01 :: identityBytes (ident 1) ++ [0x58, 0x02]) := by
  unfold State.serves State.serving; decide +kernel

theorem test_meets_claim_elsewhere_held :
    let s := got (claims 96) { put 0 (.held (some (who 1)) (sec 1)) up with admission := [⟨ident 1, 0, [], .b, sec 60⟩] }
    s.serves .a (claims 96) [] ∧ (0 : Addr) ≠ 95 ∧ s.binding 0 = .held (some (who 1)) (sec 1) ∧ s.binding 95 = .free
      ∧ (after (.claim .a) s).binding 0 = .held none (sec 1) ∧ (after (.claim .a) s).admission = []
      ∧ (after (.claim .a) s).holdQueue = [0]
      ∧ (sent (after (.claim .a) s)).map (·.body) = some (0x00 :: identityBytes (ident 1) ++ [0x58, 0x02]) := by
  unfold State.serves State.serving; decide +kernel

theorem test_meets_claim_of_a_bound_address :
    let s := fun (b : Binding) => got (claims 1) (put 0 b up)
    (s (boundTo 1)).serves .a (claims 1) [] ∧ (∀ b, b ≠ 0 → ident 1 ∉ ((s (boundTo 2)).binding b).parties)
      ∧ (s (boundTo 1)).binding 0 = .bound (who 1) lease false none ∧ lease.kind = .timed
      ∧ (s (.bound (who 1) .permanent true none)).binding 0 = .bound (who 1) .permanent true none
      ∧ (who 2).identity ≠ ident 1
      ∧ (after (.claim .a) (s (boundTo 1))).binding 0 = .bound (who 1) (.timed 600 (sec 600)) false none
      ∧ (after (.claim .a) (s (.bound (who 1) .permanent true none))).binding 0 = .bound (who 1) .permanent true none
      ∧ (after (.claim .a) (s (boundTo 2))).binding 0 = contest 2 1
      ∧ (after (.claim .a) (s (boundTo 2))).factor .contest = true := by
  unfold State.serves State.serving; decide +kernel

/-- The claimant is HELD elsewhere, and the address is BOUND to another. -/
theorem test_meets_claim_contest_held_elsewhere :
    let s := got (claims 96) (put 0 (.held (some (who 1)) (sec 1)) (put 95 (boundTo 2) up))
    s.serves .a (claims 96) [] ∧ (0 : Addr) ≠ 95 ∧ s.binding 95 = .bound (who 2) lease false none
      ∧ s.binding 0 = .held (some (who 1)) (sec 1) ∧ (who 2).identity ≠ ident 1
      ∧ (after (.claim .a) s).binding 95 = contest 2 1 ∧ (after (.claim .a) s).binding 0 = .held none (sec 1)
      ∧ (after (.claim .a) s).holdQueue = [0] ∧ (after (.claim .a) s).factor .contest = true := by
  unfold State.serves State.serving; decide +kernel

theorem test_identities_stand_once_in_two :
    (got (claims 96) (put 0 (.held (some (who 1)) (sec 1)) (put 95 (boundTo 2) up))).IdentitiesStandOnce := by
  apply stands_once [0, 95] <;> decide +kernel

theorem test_meets_claim_turned_away :
    let s := fun (b : Binding) => got (claims 1) (put 0 b up)
    let moved := got (claims 1) (put 95 (boundTo 1) up)
    ident 1 ∈ ({ up with barred := [ident 1] } : State).barred
      ∧ (95 : Addr) ≠ 0 ∧ ident 1 ∈ (moved.binding 95).parties ∧ (moved.binding 95).state ≠ .held
      ∧ (∀ b, b ≠ 0 → ident 1 ∈ ((s .free).binding b).parties → ((s .free).binding b).state = .held)
      ∧ (s .free).binding 0 = .free ∧ ({ up.policy with mode := .closed } : Policy).mode ≠ .open_
      ∧ (s (.held none (sec 1))).binding 0 ≠ .free ∧ ((s (.held none (sec 1))).binding 0).state ≠ .bound
      ∧ ident 1 ∉ ((s (.held none (sec 1))).binding 0).parties
      ∧ ((s (contest 2 1)).binding 0).state = .contested ∧ ident 1 ∈ ((s (contest 2 1)).binding 0).parties
      ∧ (sent (after (.claim .a) moved)).map (·.body) = some (0x16 :: identityBytes (ident 1) ++ [96])
      ∧ (sent (after (.claim .a) (s (.held none (sec 1))))).map (·.body) = some (0x14 :: identityBytes (ident 1))
      ∧ (sent (after (.claim .a) (s (contest 2 1)))).map (·.body) = some (0x17 :: identityBytes (ident 1)) := by
  decide +kernel

/-! ### Timers -/

theorem test_meets_seconds_boundary :
    let s := put 0 (offer .free) (put 1 (.bound (who 2) (.timed 10 (sec 1)) false none) recalling)
    s.inReset = none ∧ State.reset.phase = .stopped ∧ s.phase.isStopped = false
      ∧ (∀ a, (s.binding a).due = false) ∧ (∀ e ∈ s.admission, e.wait.due = false) ∧ s.phase = .recall (sec 60)
      ∧ s.binding 0 = .offered (who 1) .free (sec 5)
      ∧ (after .secondsBoundary s).binding 0 = .offered (who 1) .free (sec 4)
      ∧ (after .secondsBoundary s).binding 1 = .bound (who 2) (.timed 10 due) false none
      ∧ (after .secondsBoundary s).phase = .recall (sec 59) := by decide +kernel

/-- Expiries of the boundary before that no row has applied are applied by the next (log 3). -/
theorem test_meets_outstanding_expiries :
    let s := { put 0 (.offered (who 1) .free due) (put 95 (.held none due) recalling) with
      phase := .recall due, admission := [⟨ident 9, 0, [], .a, due⟩] }
    let t := after .secondsBoundary s
    s.inReset = none ∧ s.phase.isStopped = false ∧ (s.binding 0).due = true ∧ t.binding 0 = .free ∧ t.binding 95 = .free
      ∧ t.admission = [] ∧ t.phase = .running ∧ t.generation = 2
      ∧ t.generation.toNat ≤ 112 * allAddrs.countP (fun a => (s.binding a).due) := by decide +kernel

theorem test_meets_expiries :
    let o := put 95 (.offered (who 1) .free due) up
    let l := put 95 (.bound (who 1) (.timed 600 due) true none) up
    let h := put 95 (.held none due) up
    addrOf? (96 : Byte) = some 95 ∧ (up.binding 95).due = false ∧ o.boundary = Boundary.none
      ∧ o.binding 95 = .offered (who 1) .free due ∧ due.due = true
      ∧ l.binding 95 = .bound (who 1) (.timed 600 due) true none ∧ h.binding 95 = .held none due
      ∧ (after (.offerLapse 96) o).freeQueue.head? = some 95
      ∧ (after (.leaseExpiry 96) l).binding 95 = .reserved (resv 1)
      ∧ (after (.holdExpiry 96) h).freeQueue.getLast? = some 95 := by decide +kernel

/-- Two bindings with a count that is due, at a boundary that has just been opened. -/
def twoDue (a c : Addr) (b d : Binding) : State := (put c d (put a b up)).openBoundary

theorem test_meets_expiries_of_one_boundary :
    let o := twoDue 0 95 (.offered (who 1) .free due) (.offered (who 2) .free due)
    let l := twoDue 0 95 (.bound (who 1) (.timed 600 due) false none) (.bound (who 2) (.timed 600 due) false none)
    let h := (put 0 (.held none due) (put 95 (.held none due) up)).openBoundary
    o.QueuesAgree ∧ (0 : Addr) < 95 ∧ o.boundary = { Boundary.none with holds := o.holdQueue }
      ∧ l.policy.holdPeriod ≠ 0 ∧ h.holdQueue = [] ++ [95] ++ [] ++ [0] ++ []
      ∧ (after (.offerLapse 1) (after (.offerLapse 96) o)).freeQueue = 0 :: 95 :: o.freeQueue
      ∧ (after (.leaseExpiry 1) (after (.leaseExpiry 96) l)).holdQueue = [0, 95]
      ∧ (after (.holdExpiry 96) (after (.holdExpiry 1) h)).freeQueue = h.freeQueue ++ [95, 0] := by decide +kernel

/-- A hold with a later address behind it, and the tail joins beside a hold and beside a lapse, with a hold period of 0. -/
theorem test_meets_tail_joins_of_one_boundary :
    let now := fun (s : State) => { s with policy := { s.policy with holdPeriod := 0 } }
    let held := now (twoDue 0 95 (.held none due) (.held none due))
    let mixed := now (twoDue 95 0 (.held none due) (.offered (who 2) .held due))
    let ends := now (twoDue 95 0 (.offered (who 1) .free due) (.bound (who 2) (.timed 600 due) false none))
    let both := now (twoDue 95 0 (.offered (who 1) .free due) (.held none due))
    held.QueuesAgree ∧ mixed.QueuesAgree ∧ ends.QueuesAgree ∧ both.QueuesAgree
      ∧ held.holdQueue = [] ++ [0] ++ [] ++ [95] ++ [] ∧ held.boundary = { Boundary.none with holds := held.holdQueue }
      ∧ mixed.binding 95 = .held none due ∧ mixed.binding 0 = .offered (who 2) .held due ∧ mixed.policy.holdPeriod = 0
      ∧ ends.binding 95 = .offered (who 1) .free due ∧ ends.binding 0 = .bound (who 2) (.timed 600 due) false none
      ∧ both.binding 0 = .held none due
      ∧ (after (.holdExpiry 1) (after (.holdExpiry 96) held)).freeQueue = held.freeQueue ++ [0, 95]
      ∧ (after (.holdExpiry 96) (after (.offerLapse 1) mixed)).freeQueue = mixed.freeQueue ++ [95, 0]
      ∧ (after (.offerLapse 96) (after (.leaseExpiry 1) ends)).freeQueue = 95 :: (ends.freeQueue ++ [0])
      ∧ (after (.offerLapse 96) (after (.holdExpiry 1) both)).freeQueue = 95 :: (both.freeQueue ++ [0]) := by decide +kernel

/-- A RELEASE of address 10 between the lease expiries of 50 and 40, with a hold period and without (log 17). -/
theorem test_command_between_two_expiries :
    let s := fun (period : Nat) =>
      let l := fun (n : Byte) => Binding.bound (who n) (.timed 600 due) false none
      let t := (got (req 10 0x21 []) (put 9 (boundTo 1) (put 39 (l 2) (put 49 (l 3) up)))).openBoundary
      { t with policy := { t.policy with holdPeriod := period } }
    let run := fun (t : State) => after (.leaseExpiry 40) (after (.release .a) (after (.leaseExpiry 50) t))
    (run (s 120)).holdQueue = [39, 49, 9] ∧ (run (s 0)).freeQueue = (s 0).freeQueue ++ [39, 49, 9] := by decide +kernel

theorem test_meets_other_expiries :
    let s := put 0 (.contested (who 1) lease true none ⟨ident 2, 0x21, .b⟩ (some due)) up
    let r := { up with phase := .recall due }
    s.binding 0 = .contested (who 1) lease true none ⟨ident 2, 0x21, .b⟩ (some due)
      ∧ (after (.contestExpiry 1) s).binding 0 = .bound (who 1) (.timed 600 (sec 600)) true none
      ∧ r.phase = .recall due ∧ (after .recallWindowExpiry r).phase = .running
      ∧ (after .recallWindowExpiry r).factor .recallDone = true
      ∧ (after (.admissionWaitExpiry (ident 1)) { up with admission := [⟨ident 1, 0, [], .a, due⟩] }).admission = [] := by
  decide +kernel

theorem test_meets_ack_timer :
    let s := fun (n : Nat) => up.setListing .a (some { listed true with sends := n })
    (s 3).listing .a = some { listed true with sends := 3 } ∧ (listed true).timer = some 250
      ∧ (up.line .a).line ≠ .disabled ∧ (up.line .a).queue.length < 4
      ∧ ((after (.ackTimerExpiry .a) (s 3)).listing .a).map (fun l => (l.sends, l.timer)) = some (4, none)
      ∧ ((up.setListing .b (some (listed true))).line .b).line = .disabled
      ∧ (after (.ackTimerExpiry .a) (s 4)).listing .a = none
      ∧ (after (.ackTimerExpiry .a) (s 4)).factor .listingAbandoned = true := by decide +kernel

/-! ### Segment lines -/

def ch (b : Byte) : LineChar := ⟨b, false, true⟩

def receiving (r : Reception) : State := onA { up.lineA with line := .receiving r } up

theorem test_meets_characters :
    (up.line .a).line = .idle ∧ inError (up.line .a).format ⟨0xFE, false, false⟩ = true
      ∧ inError (up.line .a).format (ch 0x01) = false ∧ (ch 0x01).data ≠ 0xFE ∧ (ch 0xFE).data = 0xFE
      ∧ (up.line .a).ready.length < 2 ∧ 2 ≤ ((onA { up.lineA with ready := [whole, whole] } up).line .a).ready.length
      ∧ ((after (.characterReceived .a (ch 0xFE)) up).line .a).line = .receiving ⟨.stored, [0xFE], 1, false, false⟩
      ∧ ((after (.characterReceived .a (ch 0x01)) up).line .a).line = .receiving ⟨.traffic, [], 1, false, false⟩
      ∧ ((after (.characterReceived .a (ch 0x01)) (receiving ⟨.stored, List.replicate 47 0, 47, false, false⟩)).line .a).line =
          .receiving ⟨.stored, List.replicate 47 0, 48, false, false⟩
      ∧ after (.characterReceived .b (ch 0xFE)) up = up := by decide +kernel

theorem test_meets_frame_ends :
    let good : Reception := ⟨.stored, whole.bytes, 14, false, false⟩
    (receiving good).inReset = none ∧ ((receiving good).line .a).line = .receiving good
      ∧ good.stored = whole.header ++ whole.body ++ crc16Bytes (whole.header ++ whole.body) ∧ whole.body.length ≤ 40
      ∧ good.count = 7 + whole.body.length ∧ whole.source.toNat ≤ 0x60
      ∧ good.stored[4]? = some 7 ∧ (4 < 5) ∧ (47 < 48)
      ∧ 0x60 < ({ whole with source := 0x61 } : Frame).source.toNat
      ∧ ((after (.frameEnd .a) (receiving good)).line .a).ready = [whole]
      ∧ ((after (.frameEnd .a) (receiving { good with stored := whole.header ++ whole.body ++ [0, 0] })).line .a).flags = 8
      ∧ ((after (.frameEnd .a) (receiving { good with stored := { whole with source := 0x61 }.bytes })).line .a).flags = 16
      ∧ ((after (.frameEnd .a) (receiving { good with count := 15 })).line .a).flags = 4
      ∧ ((after (.frameEnd .a) (receiving { good with framing := true })).line .a).flags = 1
      ∧ ((after (.frameEnd .a) (receiving ⟨.overrun, [], 7, false, false⟩)).line .a).flags = 32
      ∧ (after (.frameEnd .a) (receiving ⟨.overrun, [], 7, false, false⟩)).factor .segmentAError = true := by decide +kernel

theorem test_meets_reception :
    up.inReset = none ∧ (up.line .a).line = .idle ∧ (up.line .a).ready.length < 2 ∧ whole.destination = 0xFE
      ∧ whole.source.toNat ≤ 0x60 ∧ whole.body.length ≤ 40 ∧ (whole.bytes.map ch).map (·.data) = whole.bytes
      ∧ (∀ c ∈ whole.bytes.map ch, inError (up.line .a).format c = false)
      ∧ ((after (.frameEnd .a) ((whole.bytes.map ch).foldl (fun s c => after (.characterReceived .a c) s) up)).line .a).ready =
          [whole] := by decide +kernel

/-- A reply, and a LISTING frame whose send end is awaited, at the head of the queue of a segment that sends. -/
def sending (cls : FrameClass) (collisions : Nat) : State :=
  onA { up.lineA with line := .transmitting false, queue := [⟨cls, whole⟩], collisions := collisions } up

theorem test_meets_transmissions :
    let gap := onA { up.lineA with line := .waitGap, queue := [⟨.reply, whole⟩] } up
    let off := onA { up.lineA with line := .backoff, queue := [⟨.reply, whole⟩], collisions := 1 } up
    let cut := onA { up.lineA with line := .transmitting true, queue := [⟨.reply, whole⟩] } up
    (gap.line .a).line = .waitGap ∧ (off.line .a).line = .backoff ∧ (cut.line .a).line = .transmitting true
      ∧ (up.line .a).line = .idle ∧ (up.line .a).queue = []
      ∧ (after (.transmissionStart .a) gap).driverEnabled .a = true ∧ (after (.backoffExpiry .a) off).driverEnabled .a = true
      ∧ (after (.headFrameCutOff .a) cut).driverEnabled .a = false
      ∧ ((after (.transmissionStart .a) up).line .a).idle = 4 := by decide +kernel

theorem test_meets_collisions :
    let l := (sending (.listing true) 3).setListing .a (some { listed true with timer := none })
    ((sending .reply 2).line .a).line = .transmitting false ∧ ((sending .reply 2).line .a).queue = [⟨.reply, whole⟩]
      ∧ ((sending .reply 2).line .a).collisions < 3 ∧ 3 ≤ (l.line .a).collisions ∧ whole.bytes[13]?.isSome = true
      ∧ whole.bytes[0]? = some 0xFE ∧ l.listing .a = some { listed true with timer := none }
      ∧ after (.collision .a 0 (ch 0xFE)) (sending .reply 2) = sending .reply 2
      ∧ ((after (.collision .a 0 (ch 0xFF)) (sending .reply 2)).line .a).line = .backoff
      ∧ (after (.collision .a 0 (ch 0xFF)) l).factor .contention = true
      ∧ ((after (.collision .a 0 (ch 0xFF)) l).listing .a).map (·.timer) = some (some 250)
      ∧ ((after (.frameSent .a) l).listing .a).map (·.timer) = some (some 250)
      ∧ ((after (.frameSent .a) (sending .reply 0)).line .a).line = .idle := by decide +kernel

/-- A reply and a notice handed over: to a queue with a place, to an idle line, to a full queue with the oldest notice behind
the head, at the head in each segment state, without a notice, and on a DISABLED segment. -/
theorem test_meets_hand_over :
    let full := fun (line : LineState) (cs : List FrameClass) => (queued line cs up).handReply .a whole
    let q := fun (s : State) => s.lineA.queue.map (·.cls)
    let behind : List FrameClass := [.reply, .notice, .listing true, .notice]
    let head : List FrameClass := [.notice, .notice, .reply, .reply]
    4 ≤ (queued .waitGap behind up).lineA.queue.length
      ∧ q (full .waitGap (replies 3)) = replies 4 ∧ full .waitGap (replies 4) = queued .waitGap (replies 4) up
      ∧ (up.handReply .a whole).lineA.line = .waitGap
      ∧ ((onA { up.lineA with idle := 4 } up).handNotice .a whole).lineA.line = .transmitting false
      ∧ q (full .backoff behind) = [.reply, .listing true, .notice, .reply] ∧ (full .backoff behind).lineA.line = .backoff
      ∧ q (full (.transmitting false) head) = [.notice, .reply, .reply, .reply]
      ∧ (full (.transmitting false) head).lineA.line = .transmitting true
      ∧ (full .waitGap head).lineA.line = .waitGap ∧ (full .backoff head).lineA.line = .waitGap
      ∧ (full (.receiving ⟨.traffic, [], 1, false, false⟩) head).lineA.line = .receiving ⟨.traffic, [], 1, false, false⟩
      ∧ (full .waitGap head).factor .noticeDropped = true
      ∧ ((queued .waitGap (replies 4) up).handNotice .a whole).factor .noticeDropped = true
      ∧ State.reset.handReply .a whole = State.reset ∧ (State.reset.handNotice .a whole).factor .noticeDropped = true
      ∧ sent (up.sendVacate 95 (ident 1) .a .contestLost) = some ⟨0x60, 0xFE, 0x61, 0, identityBytes (ident 1) ++ [0x03]⟩ := by
  decide +kernel

/-- A notice for all goes to the enabled segments. -/
theorem test_meets_broadcast :
    let b : Controller := { Controller.reset with line := .idle }
    let n := fun (s : State) => ((s.broadcast whole).lineA.queue.length, (s.broadcast whole).lineB.queue.length)
    State.reset.lineA.line = .disabled ∧ State.reset.lineB.line = .disabled ∧ up.lineA.line ≠ .disabled
      ∧ b.line ≠ .disabled ∧ n State.reset = (0, 0) ∧ n up = (1, 0) ∧ n { State.reset with lineB := b } = (0, 1)
      ∧ n { up with lineB := b } = (1, 1) := by decide +kernel

/-! ### The host command port -/

/-- The state after an exchange with these bytes, from the fall of CSn to its rise. -/
def exchanged (row : ExchangeEdge → Instr) (mosi : List Byte) (s : State) : State :=
  after (row (.ends mosi)) (after (row .begins) s)

theorem test_meets_exchanges :
    let r := up.setPort { up.port with state := .ready ⟨.done, [7]⟩ }
    exchangeKind [] = .statusRead ∧ exchangeKind [0x55] = .statusRead ∧ exchangeKind [0xF0] = .fetch
      ∧ r.port.state = .ready ⟨.done, [7]⟩ ∧ [0xF0, 0, 0, (0 : Byte)].length < 4 + [(7 : Byte)].length
      ∧ 4 + [(7 : Byte)].length ≤ [0xF0, 0, 0, 0, (0 : Byte)].length
      ∧ up.port.selected = none ∧ (after (.fetch .begins) r).port.selected = some 0x8A
      ∧ after (.fetch (.ends [0xF0])) up = up ∧ after (.fetch .begins) (after (.fetch .begins) r) = after (.fetch .begins) r
      ∧ (exchanged .statusRead [0] up).port.miso = [0x0A] ∧ (exchanged .fetch [0xF0, 0, 0] up).port.miso = [0x0A, 0xFF, 0]
      ∧ (exchanged .fetch [0xF0, 0, 0, 0] r).port.state = .ready ⟨.done, [7]⟩
      ∧ (exchanged .fetch [0xF0, 0, 0, 0, 0] r).port.state = .idle
      ∧ (exchanged .fetch [0xF0, 0, 0, 0, 0] r).port.miso = [0x8A, 0, 1, 7, crc8 [0, 1, 7]] := by decide +kernel

theorem test_meets_command_frames :
    let ps : List Byte := List.replicate 32 5
    let m : List Byte := 0x11 :: 32 :: ps ++ [crc8 (0x11 :: 32 :: ps)]
    let began := after (.commandFrame .begins) up
    began.inReset = none ∧ began.port.selected = some 0x0A ∧ exchangeKind m = .commandFrame
      ∧ (32 : Byte).toNat ≤ 32 ∧ ps.length = (32 : Byte).toNat
      ∧ (exchanged .commandFrame m up).port.state = .executing 0x11 ps
      ∧ (exchanged .commandFrame m (doing 0x60 [] up)).port.refused = true
      ∧ exchangeKind [0x11, 0] = .commandFrame ∧ (exchanged .commandFrame [0x11, 0] up).port.check = true
      ∧ (exchanged .commandFrame [0x11, 0] up).port.state = .idle := by decide +kernel

/-- An execution that ends between the two edges: the exchange shows BUSY, its frame is taken, and a fetch gives the no-reply
marker (R174, R178). -/
theorem test_execution_ends_within_an_exchange :
    let m : List Byte := [0x60, 0, crc8 [0x60, 0]]
    let within := fun (row : ExchangeEdge → Instr) (mosi : List Byte) =>
      after (row (.ends mosi)) (after .readFactors (after (row .begins) (doing 0x51 [] up)))
    (within .commandFrame m).port.miso = [0x4A, 0, 0] ∧ (within .commandFrame m).port.state = .executing 0x60 []
      ∧ (within .commandFrame m).port.refused = false
      ∧ (within .fetch [0xF0, 0, 0]).port.miso = [0x4A, 0xFF, 0]
      ∧ reply (within .fetch [0xF0, 0, 0]) = some ⟨.done, [1, 0, 1, 0]⟩ := by decide +kernel

/-- A frame of two bytes is too short to pass the conditions (R176). -/
theorem test_meets_command_frame_refused (code len : Byte) (ps : List Byte) (_ : len.toNat ≤ 32)
    (_ : ps.length = len.toNat) : ([0x11, 0] : List Byte) ≠ code :: len :: ps ++ [crc8 (code :: len :: ps)] := by
  intro h
  have := congrArg List.length h
  simp at this

theorem test_meets_commands_answered :
    (doing 0x61 [] up).port.state = .executing 0x61 [] ∧ (0x61 : Byte) ∉ catalogue ∧ (0x11 : Byte) ∈ catalogue
      ∧ paramsAccepted 0x11 [61] = false ∧ paramsAccepted 0x60 [0] = false
      ∧ reply (after .unknownCommand (doing 0x61 [] up)) = some ⟨.unknownCommand, []⟩
      ∧ reply (after .start (doing 0x11 [61] up)) = some ⟨.badParameter, []⟩
      ∧ reply (after .readStatus (doing 0x60 [0] up)) = some ⟨.badParameter, []⟩ := by decide +kernel

/-! ### Host commands -/

theorem test_meets_segment_commands :
    let n := onA { up.lineA with queue := [⟨.notice, whole⟩], line := .waitGap } up
    configureParams? [1, 5, 2, 2] = some (.b, ⟨.b230400, .odd, .two⟩) ∧ segmentParam? [0] = some .a
      ∧ segmentParam? [1] = some .b ∧ clearFlagsParams? [0, 63] = some (.a, 63)
      ∧ (up.line .b).line = .disabled ∧ (up.line .a).line ≠ .disabled ∧ (∀ q ∈ (up.line .a).queue, q.cls ≠ .notice)
      ∧ (∃ q ∈ (n.line .a).queue, q.cls = .notice)
      ∧ ((after .configureSegment (doing 0x01 [1, 5, 2, 2] up)).line .b).format = ⟨.b230400, .odd, .two⟩
      ∧ reply (after .configureSegment (doing 0x01 [0, 5, 2, 2] up)) = some ⟨.wrongState, []⟩
      ∧ ((after .enableSegment (doing 0x02 [1] up)).line .b).line = .idle
      ∧ (after .disableSegment (doing 0x03 [0] n)).factor .noticeDropped = true
      ∧ ((after .disableSegment (doing 0x03 [0] n)).line .a).line = .disabled
      ∧ ((after .clearSegmentFlags (doing 0x04 [0, 1] (onA { up.lineA with flags := 3 } up))).line .a).flags = 2 := by
  decide +kernel

theorem test_meets_set_policy :
    let ps : List Byte := [1, 8, 60, 10, 0, 0xFF, 0xFF, 0, 0, 5, 0, 0, 0]
    policyParams? ps = some ⟨.supervised, 8, 60, 10, 65535, 0, 5, 0⟩
      ∧ policyParams? [2, 1, 1, 10, 0, 10, 0, 0x10, 0x0E, 0x58, 2, 0x10, 0x0E] = some ⟨.closed, 1, 1, 10, 10, 3600, 600, 3600⟩
      ∧ 1 < (put 0 (offer .free) (put 1 (.offered (who 2) .held (sec 1)) up)).offeredCount ∧ up.offeredCount ≤ 8
      ∧ (after .setPolicy (doing 0x10 ps up)).policy = ⟨.supervised, 8, 60, 10, 65535, 0, 5, 0⟩
      ∧ reply (after .setPolicy (doing 0x10 [] up)) = some ⟨.done, [0, 4, 5, 0x58, 2, 0x10, 0x0E, 120, 0, 60, 0, 0, 0]⟩ := by
  decide +kernel

theorem test_meets_start_and_stop :
    let s := put 0 (offer .free) (put 95 (.offered (who 2) .held (sec 1)) { up with phase := .stopped })
    startParam? [0] = some 0 ∧ startParam? [60] = some 60 ∧ s.phase = .stopped ∧ s.QueuesAgree ∧ up.phase ≠ .stopped
      ∧ s.binding 0 = .offered (who 1) .free (sec 5) ∧ s.binding 95 = .offered (who 2) .held (sec 1)
      ∧ (after .start (doing 0x11 [0] s)).phase = .running ∧ (after .start (doing 0x11 [60] s)).phase = .recall (sec 60)
      ∧ (after .start (doing 0x11 [60] s)).freeQueue = 0 :: s.freeQueue ∧ (after .start (doing 0x11 [60] s)).holdQueue = [95]
      ∧ (after .stop (doing 0x12 [] (put 0 (.held none due) up))).binding 0 = .held none (sec 1)
      ∧ (after .stop (doing 0x12 [] up)).phase = .stopped := by decide +kernel

/-- Offers of origin HELD withdrawn with a hold period of 0 leave their groups and join the free queue ascending (log 17). -/
theorem test_meets_start_without_hold_period :
    let s := (put 95 (.offered (who 1) .held (sec 1)) (put 0 (.offered (who 2) .held (sec 1))
      { up with phase := .stopped, policy := { up.policy with holdPeriod := 0 }, poolFree := 127 })).setGroup 0
        (.opened 2 .stations [95])
    let t := after .start (doing 0x11 [60] s)
    s.phase = .stopped ∧ s.QueuesAgree ∧ s.group 0 = .opened 2 .stations [95] ∧ s.group 1 = .unused
      ∧ t.binding 95 = .free ∧ t.freeQueue = s.freeQueue ++ [0, 95] ∧ t.group 0 = .opened 2 .stations [] ∧ t.poolFree = 128 := by
  decide +kernel

theorem test_meets_clear :
    let s := (put 0 (.bound (who 1) lease true none) { up with phase := .stopped }).setGroup 0 (.opened 2 .stations [0])
    clearParams? [1, 1] = some (true, true) ∧ clearParams? [0, 0] = some (false, false) ∧ s.phase = .stopped
      ∧ (s.binding 0).reservation? = some (resv 1) ∧ (s.binding 1).reservedYes = false
      ∧ s.group 1 = .unused ∧ s.group 0 = .opened 2 .stations [0]
      ∧ (after .clear (doing 0x13 [1, 1] s)).binding 0 = .reserved (resv 1)
      ∧ (after .clear (doing 0x13 [1, 1] s)).group 0 = .opened 2 .stations []
      ∧ (after .clear (doing 0x13 [0, 0] s)).freeQueue = allAddrs ∧ (after .clear (doing 0x13 [0, 0] s)).group 0 = .unused
      ∧ reply (after .clear (doing 0x13 [0, 0] s)) = some ⟨.done, [2, 2, 0, 0, 0]⟩ := by decide +kernel

theorem test_meets_read_record :
    let s := put 95 (.contested (who 1) lease true none ⟨ident 2, 0x22, .b⟩ (some (sec 9))) up
    addrParam? [96] = some 95 ∧ s.binding 95 = .contested (who 1) lease true none ⟨ident 2, 0x22, .b⟩ (some (sec 9))
      ∧ reply (after .readRecord (doing 0x20 [96] s)) = some ⟨.done,
          [96, 5, 0xCF, 0, 1] ++ identityBytes (ident 1) ++ [0x21, 0, 0x58, 2, 10, 0, 0, 0, 0, 0, 0] ++ identityBytes (ident 2)
            ++ [0x22, 1, 9, 0, 0, 0, 0, 0, 0, 0, 0, 0, 0, 0, 0, 0, 0]⟩ := by decide +kernel

theorem test_meets_reading_commands :
    let s := put 0 (contest 1 2) (supervised 8)
    identityParam? (identityBytes (ident 2)) = some (ident 2) ∧ (s.binding 0).challenger? = some (ident 2)
      ∧ (s.binding 0).identity? = some (ident 1) ∧ (∀ a, ident 9 ∉ (s.binding a).parties)
      ∧ (s.admission.map (·.identity)).Nodup ∧ s.admission[7]?.map (·.identity) = some (ident 8)
      ∧ (∀ e ∈ s.admission, e.identity ≠ ident 9) ∧ positionParam? [7] = some 7 ∧ barredIndexParam? [15] = some 15
      ∧ up.admission.length ≤ 7 ∧ groupParam? [16] = some 15
      ∧ reply (after .findIdentity (doing 0x21 (identityBytes (ident 2)) s)) = some ⟨.done, [1, 1, 5, 0, 1]⟩
      ∧ reply (after .readAdmission (doing 0x30 [7] s)) =
          some ⟨.done, [8] ++ identityBytes (ident 8) ++ [0x21, 1, 60, 0, 0]⟩
      ∧ reply (after .readBarred (doing 0x35 [0] { up with barred := [ident 3] })) = some ⟨.done, 1 :: identityBytes (ident 3)⟩
      ∧ reply (after .readGroup (doing 0x44 [1] (inGroup (.opened 2 .stations [0])))) = some ⟨.done, [128, 1, 1, 2, 0, 1, 1]⟩
      ∧ reply (after .readFactors (doing 0x51 [] up)) = some ⟨.done, [1, 0, 1, 0]⟩
      ∧ reply (after .readStatus (doing 0x60 [] s)) =
          some ⟨.done, [2, 0, 95, 0, 0, 0, 0, 1, 95, 0, 8, 0, 128, 0, 0, 0, 0, 0]⟩ := by decide +kernel

theorem test_meets_reserve :
    let ps : List Byte := 1 :: identityBytes (ident 1) ++ [0x21, 0, 0]
    let h := put 95 (.held (some (who 1)) (sec 1)) up
    let own := put 0 (.held (some (who 1)) (sec 1)) up
    let away := put 95 (boundTo 1) up
    reserveParams? ps = some (0, resv 1) ∧ (resv 1).identity ∉ up.barred ∧ up.binding 0 = .free
      ∧ (∀ b, b ≠ 0 → (resv 1).identity ∉ (up.binding b).parties)
      ∧ own.binding 0 = .held (some (who 1)) (sec 1) ∧ (who 1).identity = (resv 1).identity
      ∧ h.binding 95 = .held (some (who 1)) (sec 1) ∧ (95 : Addr) ≠ 0
      ∧ (resv 1).identity ∈ (away.binding 95).parties ∧ (away.binding 95).state ≠ .held
      ∧ (after .reserve (doing 0x22 ps up)).binding 0 = .reserved (resv 1)
      ∧ (after .reserve (doing 0x22 ps own)).holdQueue = [] ∧ (after .reserve (doing 0x22 ps h)).binding 95 = .held none (sec 1)
      ∧ reply (after .reserve (doing 0x22 ps away)) = some ⟨.wrongState, []⟩ := by decide +kernel

theorem test_meets_unreserve_and_modify :
    let s := fun (b : Binding) => put 0 b up
    (s (.reserved (resv 1))).binding 0 = .reserved (resv 1) ∧ (s (boundTo 1)).binding 0 = boundTo 1
      ∧ (s (offer (.reserved .timed))).binding 0 = offer (.reserved .timed) ∧ (s (contest 1 2)).binding 0 = contest 1 2
      ∧ (after .unreserve (doing 0x23 [1] (s (.reserved (resv 1))))).freeQueue.getLast? = some 0
      ∧ (after .unreserve (doing 0x23 [1] (s (offer (.reserved .timed))))).binding 0 = offer .free
      ∧ reply (after .unreserve (doing 0x23 [1] (s (.held none (sec 1))))) = some ⟨.wrongState, []⟩
      ∧ (after .modify (doing 0x25 [1, 0x30, 1, 10, 0, 0] (s (boundTo 1)))).binding 0 =
          .bound { who 1 with cls := 0x30 } (.timed 10 (sec 10)) false none
      ∧ (after .modify (doing 0x25 [1, 0x30, 2, 0, 0, 1, 7] (s (.reserved (resv 1))))).binding 0 =
          .reserved ⟨ident 1, 0x30, [7], .permanent⟩ := by decide +kernel

theorem test_meets_modify_params :
    modifyParams? [1, 0x30, 1, 10, 0, 0] = some (0, 0x30, .timed, 10, [])
      ∧ modifyParams? [1, 0x30, 2, 0, 0, 1, 7] = some (0, 0x30, .permanent, 0, [7]) := ⟨rfl, rfl⟩

theorem test_meets_evict :
    let s := fun (b : Binding) => put 0 b up
    (s (boundTo 1)).binding 0 = boundTo 1 ∧ (s (contest 1 2)).binding 0 = contest 1 2 ∧ (s (offer .held)).binding 0 = offer .held
      ∧ (s (.held (some (who 1)) (sec 1))).binding 0 = .held (some (who 1)) (sec 1)
      ∧ (s (.held none (sec 1))).binding 0 = .held none (sec 1) ∧ (s .free).binding 0 = .free
      ∧ (after .evict (doing 0x24 [1] (s (boundTo 1)))).binding 0 = .held none (sec 120)
      ∧ (sent (after .evict (doing 0x24 [1] (s (boundTo 1))))).map (·.kind) = some 0x61
      ∧ (after .evict (doing 0x24 [1] (s (contest 1 2)))).lineA.queue.length = 2
      ∧ (after .evict (doing 0x24 [1] (s (.held (some (who 1)) (sec 1))))).binding 0 = .held none (sec 1)
      ∧ reply (after .evict (doing 0x24 [1] (s .free))) = some ⟨.wrongState, []⟩ := by decide +kernel

theorem test_meets_resolve_contest :
    let s := put 95 (.contested (who 1) .permanent true none ⟨ident 2, 0x22, .a⟩ none) up
    resolveContestParams? [96, 0] = some (95, .incumbent) ∧ resolveContestParams? [96, 1] = some (95, .challenger)
      ∧ resolveContestParams? [96, 2] = some (95, .neither) ∧ (up.binding 95).state ≠ .contested
      ∧ s.binding 95 = .contested (who 1) .permanent true none ⟨ident 2, 0x22, .a⟩ none
      ∧ (after .resolveContest (doing 0x26 [96, 0] s)).binding 95 = .bound (who 1) .permanent true none
      ∧ (after .resolveContest (doing 0x26 [96, 1] s)).binding 95 = .bound ⟨ident 2, 0x22, [], .a⟩ .permanent true none
      ∧ (after .resolveContest (doing 0x26 [96, 2] s)).binding 95 = .reserved { resv 1 with kind := .permanent } := by
  decide +kernel

theorem test_meets_approve :
    let x := identityBytes (ident 8)
    let e : AdmissionEntry := ⟨ident 8, 0x21, [], .b, sec 60⟩
    let own := put 95 (.reserved (resv 8)) (supervised 8)
    let s := fun (t : State) => reply (after .approve (doing 0x31 x { t with admission := [e] }))
    identityParam? x = some (ident 8) ∧ recalling.phase ≠ .running ∧ up.phase = .running
      ∧ (∀ d ∈ up.admission, d.identity ≠ ident 8) ∧ e ∈ (supervised 8).admission
      ∧ (tight (supervised 8)).policy.offerLimit ≤ (tight (supervised 8)).offeredCount
      ∧ (supervised 8).offeredCount < (supervised 8).policy.offerLimit
      ∧ own.binding 95 = .reserved (resv 8) ∧ (∀ a, ident 8 ∉ ((supervised 8).binding a).parties)
      ∧ (supervised 8).freeQueue = 0 :: allAddrs.drop 1 ∧ (supervised 8).binding 0 = .free
      ∧ s own = some ⟨.done, [96, 5]⟩ ∧ s up = some ⟨.done, [1, 5]⟩ ∧ s (tight up) = some ⟨.limit, []⟩
      ∧ s (scarce (.held (some (who 2)) (sec 1))) = some ⟨.done, [1, 5]⟩
      ∧ s { scarce (.held none (sec 1)) with holdQueue := [] } = some ⟨.noRoom, []⟩ := by decide +kernel

theorem test_meets_deny_and_unbar :
    let full := (List.range 16).map (fun k => ident (BitVec.ofNat 8 (k + 100)))
    denyParams? (identityBytes (ident 8) ++ [1]) = some (ident 8, true)
      ∧ denyParams? (identityBytes (ident 8) ++ [0]) = some (ident 8, false)
      ∧ (∀ e ∈ up.admission, e.identity ≠ ident 8) ∧ (∃ e ∈ (supervised 8).admission, e.identity = ident 8)
      ∧ 16 ≤ full.length ∧ (supervised 8).barred.length < 16 ∧ ident 8 ∉ (supervised 8).barred ∧ ident 100 ∈ full
      ∧ (after .deny (doing 0x32 (identityBytes (ident 8) ++ [1]) (supervised 8))).barred = [ident 8]
      ∧ (after .deny (doing 0x32 (identityBytes (ident 8) ++ [0]) (supervised 8))).admission = (supervised 7).admission
      ∧ reply (after .deny (doing 0x32 (identityBytes (ident 8) ++ [1]) { supervised 8 with barred := full })) =
          some ⟨.noRoom, []⟩
      ∧ (after .unbar (doing 0x34 (identityBytes (ident 100)) { up with barred := full })).barred = full.drop 1 := by
  decide +kernel

theorem test_meets_bar :
    let full := (List.range 16).map (fun k => ident (BitVec.ofNat 8 (k + 100)))
    let s := fun (b : Binding) => after .bar (doing 0x33 (identityBytes (ident 1)) (put 95 b up))
    ident 100 ∈ full ∧ ident 1 ∉ full ∧ 16 ≤ full.length ∧ ident 1 ∉ up.barred ∧ up.barred.length < 16
      ∧ (∀ a, ident 1 ∉ (up.binding a).parties)
      ∧ (s .free).barred = [ident 1] ∧ reply (s .free) = some ⟨.done, [0]⟩
      ∧ (s (.reserved (resv 1))).binding 95 = .reserved (resv 1) ∧ reply (s (.reserved (resv 1))) = some ⟨.done, [96]⟩
      ∧ (s (offer .free)).freeQueue.head? = some 95 ∧ (s (boundTo 1)).binding 95 = .held none (sec 120)
      ∧ (s (.held (some (who 1)) (sec 1))).binding 95 = .held none (sec 1)
      ∧ (s (contest 1 2)).binding 95 = .bound (who 2) (.timed 600 (sec 600)) false none
      ∧ (s (contest 2 1)).binding 95 = .bound (who 2) (.timed 600 (sec 600)) false none := by decide +kernel

theorem test_meets_groups :
    let o := inGroup (.opened 2 .stations [0])
    openGroupParams? [1, 12, 1] = some (0, 12, .hostonly) ∧ openGroupParams? [16, 1, 0] = some (15, 1, .stations)
      ∧ groupParam? [1] = some 0 ∧ memberParams? [1, 96] = some (0, 95) ∧ o.group 0 = .opened 2 .stations [0]
      ∧ (inGroup .unused).group 0 = .unused ∧ (1 : Nat) < [(0 : Addr), 5].length ∧ [(0 : Addr)].length ≤ 1
      ∧ (o.binding 95).isBound = false ∧ (o.binding 0).isBound = true ∧ o.poolFree ≠ 0
      ∧ (after .openGroup (doing 0x40 [1, 12, 1] (inGroup .unused))).group 0 = .opened 12 .hostonly []
      ∧ (after .openGroup (doing 0x40 [1, 12, 1] o)).group 0 = .opened 12 .hostonly [0]
      ∧ (after .closeGroup (doing 0x41 [1] o)).group 0 = .unused
      ∧ (sent (after .closeGroup (doing 0x41 [1] o))).map (fun f => (f.destination, f.kind)) = some (0xE1, 0x62)
      ∧ reply (after .addMember (doing 0x42 [1, 96] o)) = some ⟨.wrongState, []⟩
      ∧ reply (after .addMember (doing 0x42 [1, 1] o)) = some ⟨.done, [1]⟩
      ∧ reply (after .addMember (doing 0x42 [1, 1] (inGroup (.opened 1 .stations [5])))) = some ⟨.limit, []⟩
      ∧ (after .addMember (doing 0x42 [1, 1] (inGroup (.opened 2 .hostonly [5])))).group 0 = .opened 2 .hostonly [5, 0] := by
  decide +kernel

theorem test_meets_remove_member :
    let o := inGroup (.opened 3 .hostonly ([5] ++ 0 :: [6]))
    groupOf? (17 : Byte) = none ∧ addrOf? (0 : Byte) = none ∧ groupOf? (1 : Byte) = some 0 ∧ addrOf? (1 : Byte) = some 0
      ∧ (inGroup .unused).group 0 = .unused ∧ o.group 0 = .opened 3 .hostonly ([5] ++ 0 :: [6])
      ∧ (0 : Addr) ∉ [(5 : Addr)] ∧ (0 : Addr) ∉ [(6 : Addr)]
      ∧ (after .removeMember (doing 0x43 [1, 1] o)).group 0 = .opened 3 .hostonly [5, 6]
      ∧ (after .removeMember (doing 0x43 [1, 1] o)).generation = 2
      ∧ (after .removeMember (doing 0x43 [1, 1] o)).marks = [.addr 0, .group 0]
      ∧ reply (after .removeMember (doing 0x43 [17, 1] o)) = some ⟨.badParameter, []⟩
      ∧ reply (after .removeMember (doing 0x43 [1, 2] o)) = some ⟨.noSuch, []⟩ := by decide +kernel

theorem test_meets_attention :
    let ms := (allAddrs.take 40).map Mark.addr
    let s := { up with marks := ms }
    s.marks = ms.take 32 ++ ms.drop 32 ∧ (ms.take 32).length = min 32 s.marks.length
      ∧ factorParam? [0xFF, 0x0F] = some 0xFFF
      ∧ (after .collect (doing 0x50 [] s)).marks = ms.drop 32
      ∧ (after .clearFactors (doing 0x52 [0xFF, 0x0F] up)).events = 0
      ∧ (after .setEnables (doing 0x53 [0xFF, 0x0F] up)).enables = 0xFFF := by decide +kernel

/-! ### Laws that hold at every moment -/

/-- The premises of the laws hold together in a state with a bound address and a contest. -/
theorem test_meets_laws :
    let s := { put 0 (boundTo 1) (put 1 (contest 2 3) up) with
      pending := [.secondsBoundary], barred := [ident 8, ident 9] }
    s.QueuesAgree ∧ s.AdmissionLawful ∧ s.BarredLawful ∧ s.OffersLimited ∧ s.CountsLawful ∧ s.PoolAccounts ∧ s.MembersStand
      ∧ s.LinesLawful ∧ s.ListingsLawful ∧ s.MarksLawful ∧ s.FramesFit := by
  refine ⟨?_, ?_, ?_, ?_, ?_, ?_, ?_, ?_, ?_, ?_, ?_⟩ <;> decide +kernel

/-- A listing that runs on lines that are lawful. -/
theorem test_meets_listing_law :
    let s := { (put 0 (boundTo 1) up).setListing .a (some (listed true)) with pending := [.ackTimerExpiry .a] }
    s.LinesLawful ∧ s.ListingsLawful ∧ (s.listing .a).isSome = true
      ∧ (after (.ackTimerExpiry .a) { s with pending := [] }).ListingsLawful := by
  refine ⟨?_, ?_, ?_, ?_⟩ <;> decide +kernel

theorem test_meets_identities :
    ({ put 0 (contest 1 2) up with pending := [.secondsBoundary] } : State).IdentitiesLawful := by
  refine ⟨?_, ?_, ?_⟩
  · apply stands_once [0] <;> decide +kernel
  all_goals decide +kernel

theorem test_steps_answer_next :
    let s := { put 0 (boundTo 1) (put 1 (contest 2 3) up) with pending := [.secondsBoundary] }
    step s = .next (after .secondsBoundary { s with pending := [] }) ∧ (after .start (doing 0x11 [0] up)).generation = 0 := by
  constructor
  · rfl
  · decide +kernel

end Sys2Proof.Tests
end

section
/-! PROOFS. Retries (R42): whatever function serves a kind of the sequence mechanism, it answers a retry from the cache. -/

namespace Sys2Proof.Machine

/-- The serving function answers every retry of a bound address from the cache and does nothing else (R42). -/
def AnswersRetries (seg : Segment) (serve : Frame → State → State) : Prop :=
  ∀ (f : Frame) (s : State) (a : Addr) (r : Replay),
    addrOf? f.source = some a → (s.binding a).isBound = true → s.retryOf a f = some r →
      serve f s = s.handReply seg (retryReply f r)

/-- A request under the sequence of the cached reply repeats it (R42). -/
theorem State.retryOf_of_sequence {s : State} {a : Addr} {f : Frame} {r : Replay}
    (hr : (s.binding a).replay? = some r) (hq : r.sequence = f.sequence) : s.retryOf a f = some r := by
  simp [State.retryOf, hr, hq]

/-- A request that names a short address does not come from 0x00. -/
theorem source_ne_zero_of_addrOf? {b : Byte} {a : Addr} (ha : addrOf? b = some a) : b ≠ 0 := by
  rintro rfl
  rw [addrOf?_zero] at ha
  cases ha

theorem State.serveBound_answersRetries {α : Type} (parse : List Byte → Option α)
    (run : Segment → Addr → α → State → Answer) (seg : Segment) :
    AnswersRetries seg (State.serveBound parse run seg) := by
  intro f s a r ha hb hr
  rw [State.serveBound_addr ha, State.serveAddressed_retry hb hr]

/-- From a short address a kind of the Either class is served as a Bound one (R41). -/
theorem State.serveEither_answersRetries {α : Type} (parse : List Byte → Option α) (run : α → State → Answer)
    (seg : Segment) : AnswersRetries seg (State.serveEither parse run seg) := by
  intro f s a r ha hb hr
  rw [State.serveEither, if_neg (source_ne_zero_of_addrOf? ha)]
  exact State.serveBound_answersRetries parse _ seg f s a r ha hb hr

/-- A repeated LIST starts no listing. -/
theorem State.serveList_answersRetries (seg : Segment) : AnswersRetries seg (State.serveList seg) := by
  intro f s a r ha hb hr
  simp only [State.serveList, ha, State.serveAddressed_retry hb hr]

/-- The row of each kind of the sequence mechanism takes its frame and serves it by a function that answers retries. -/
theorem exec_requestRow_of_mem_sequenceKinds {k : Byte} (hk : k ∈ sequenceKinds) (seg : Segment) :
    ∃ serve, AnswersRetries seg serve
      ∧ ∀ s, exec (requestRow k seg) s = .next (s.takeFrame (isKind k) seg serve) := by
  simp only [sequenceKinds, List.mem_cons, List.not_mem_nil, or_false] at hk
  rcases hk with rfl | rfl | rfl | rfl | rfl | rfl | rfl | rfl | rfl | rfl
  · exact ⟨_, State.serveBound_answersRetries renewBody? runRenew seg, fun _ => rfl⟩ -- RENEW
  · exact ⟨_, State.serveBound_answersRetries emptyBody? runRelease seg, fun _ => rfl⟩ -- RELEASE
  · exact ⟨_, State.serveBound_answersRetries retagBody? runRetag seg, fun _ => rfl⟩ -- RETAG
  · exact ⟨_, State.serveEither_answersRetries resolveBody? runResolve seg, fun _ => rfl⟩ -- RESOLVE
  · exact ⟨_, State.serveEither_answersRetries reverseBody? runReverse seg, fun _ => rfl⟩ -- REVERSE
  · exact ⟨_, State.serveBound_answersRetries searchBody? runFind seg, fun _ => rfl⟩ -- FIND
  · exact ⟨_, State.serveList_answersRetries seg, fun _ => rfl⟩ -- LIST
  · exact ⟨_, State.serveBound_answersRetries groupBody? (groupRequest joinGroup) seg, fun _ => rfl⟩ -- JOIN
  · exact ⟨_, State.serveBound_answersRetries groupBody? (groupRequest leaveGroup) seg, fun _ => rfl⟩ -- LEAVE
  · exact ⟨_, State.serveEither_answersRetries groupBody? runMembers seg, fun _ => rfl⟩ -- MEMBERS

/-- Settles O5: the row's serving function answers retries, and freeing the slot leaves the record, and so the cached
reply, as it was. -/
theorem retriesAreAnsweredFromTheCache : Obligations.RetriesAreAnsweredFromTheCache := by
  intro seg s f rest a r hs hk ha hb hr hq
  obtain ⟨serve, hserve, hexec⟩ := exec_requestRow_of_mem_sequenceKinds hk seg
  have hretry : (s.freed seg rest).retryOf a f = some r := by
    rw [State.retryOf_freed]
    exact State.retryOf_of_sequence hr hq
  rw [hexec, State.takeFrame_serves hs (by simp [isKind]), hserve f _ a r ha (by simpa using hb) hretry]
  rfl

end Sys2Proof.Machine
end

section
/-! PROOFS. RETAG (R85): the tag field it takes, what it writes, and when the write is a record change. -/

namespace Sys2Proof.Machine

/-! ### The request -/

/-- A tag of at most 8 bytes is read back from its field (R34). -/
theorem tagOf?_tagField {tag : Tag} (h : tag.length ≤ 8) : tagOf? (tagField tag) = some tag := by
  have hn : (BitVec.ofNat 8 tag.length).toNat = tag.length := by
    rw [BitVec.toNat_ofNat]
    omega
  simp [tagOf?, tagField, hn, h]

/-- RETAG of a BOUND binding writes tag and segment into its record (R85). -/
theorem runRetag_bound {s : State} {a : Addr} {h : Holder} {l : Lease} {v : Bool} {p : Option Replay}
    (hb : s.binding a = .bound h l v p) (seg : Segment) (tag : Tag) :
    runRetag seg a tag s =
      { state := s.setBinding a (.bound { h with tag := tag, segment := seg } l v p), status := .ok } := by
  simp [runRetag, hb, Holder.on]

/-- RETAG of a CONTESTED binding is not executed (R46). -/
theorem runRetag_contested {s : State} {a : Addr} (hc : (s.binding a).state = .contested) (seg : Segment) (tag : Tag) :
    runRetag seg a tag s = contestedAnswer s := by
  unfold runRetag
  split
  · rename_i hb
    simp [hb, Binding.state] at hc
  all_goals rfl

/-- A new RETAG with a tag of at most 8 bytes is executed on the state whose slot is freed, and its reply is cached
(R35, R43). -/
theorem exec_retag_new {s : State} {seg : Segment} {f : Frame} {rest : List Frame} {a : Addr} {tag : Tag}
    (hs : s.serves seg f rest) (hk : f.kind = kindRetag) (hn : s.newFrom f a) (hbody : f.body = tagField tag)
    (hlen : tag.length ≤ 8) :
    exec (.retag seg) s =
      .next ((s.freed seg rest).deliverCached seg f a (runRetag seg a tag (s.freed seg rest))) := by
  obtain ⟨ha, hb, hr⟩ := hn
  have hnew : (s.freed seg rest).newFrom f a := ⟨ha, by simpa using hb, by simpa using hr⟩
  have hparse : retagBody? f.body = some tag := by rw [hbody, retagBody?, tagOf?_tagField hlen]
  change Host.Outcome.next (s.takeFrame (isKind kindRetag) seg (State.serveBound retagBody? runRetag seg)) = _
  rw [State.takeFrame_serves hs (by simp [isKind, hk]), State.serveBound_new hnew hparse]

/-- The OK to RETAG: kind 0xA2, with no body after the status (R85). -/
theorem replyTo_retag {f : Frame} (hk : f.kind = kindRetag) :
    replyTo f .ok [] = ⟨f.source, 0xFE, 0xA2, 0#4 ++ f.sequence, [0x00]⟩ := by
  rw [replyTo, hk]
  rfl

/-! ### What one rewritten record counts -/

/-- A rewritten record, with no lease granted, is a record change when what counts of it differs (R25). -/
theorem changedRecords_of_rewrites {s u t : State} {a : Addr} {b : Binding} (h : rewrites s u t a b [])
    (hu : ∀ k, u.group k = s.group k) :
    changedRecords s t [] = if (s.binding a).record ≠ b.record then [.addr a] else [] := by
  obtain ⟨ht, hb, ho, -⟩ := h
  have hg : ∀ k, t.group k = s.group k := by
    intro k
    rw [ht]
    exact hu k
  rw [changedRecords_one ho hg (by simp), hb]
  simp

/-- Nothing is counted when the record stays the same. -/
theorem rewrites_same_record {s u t : State} {a : Addr} {b : Binding} (h : rewrites s u t a b [])
    (hu : ∀ k, u.group k = s.group k) (hb : (s.binding a).record = b.record) :
    t.generation = s.generation ∧ t.marks = s.marks := by
  have hchanged := changedRecords_of_rewrites h hu
  obtain ⟨-, -, -, hgen, hmarks⟩ := h
  rw [hgen, hmarks, hchanged, if_neg (not_not_intro hb)]
  exact ⟨rfl, rfl⟩

/-- One change is counted, and the address marked, when the record differs (R26, R27). -/
theorem rewrites_new_record {s u t : State} {a : Addr} {b : Binding} (h : rewrites s u t a b [])
    (hu : ∀ k, u.group k = s.group k) (hb : (s.binding a).record ≠ b.record) :
    t.generation = nextGeneration s.generation ∧ t.marks = putMark (.addr a) s.marks := by
  have hchanged := changedRecords_of_rewrites h hu
  obtain ⟨-, -, -, hgen, hmarks⟩ := h
  rw [hgen, hmarks, hchanged, if_pos hb]
  exact ⟨rfl, rfl⟩

/-- Of a BOUND record whose tag and segment alone are written, the two decide whether it counts as the same (R85). -/
theorem record_bound_retagged (h : Holder) (l : Lease) (v : Bool) (p q : Option Replay) (tag : Tag) (seg : Segment) :
    (Binding.bound h l v p).record = (Binding.bound { h with tag := tag, segment := seg } l v q).record
      ↔ h.tag = tag ∧ h.segment = seg := by
  cases h
  simp [Binding.record]

/-- Settles O10: a BOUND record is rewritten with tag and segment alone, which decide whether it counts; on a
CONTESTED one the execution changes nothing, so that only the slot and the cached reply are left. -/
theorem retagWritesTheTag : Obligations.RetagWritesTheTag := by
  intro seg s f rest a tag hs hk hn hbody hlen
  have hexec := exec_retag_new hs hk hn hbody hlen
  constructor
  · intro h l v p hb
    have hrun := runRetag_bound (s := s.freed seg rest) (by simpa using hb) seg tag
    rw [hrun] at hexec
    have hrw := State.deliverCached_rewrites (s := s) (seg := seg) (f := f) (rest := rest) (a := a)
      (h := { h with tag := tag, segment := seg }) (l := l) (v := v) (p := p) (status := .ok) (body := [])
      (granted := [])
    have hgroups : ∀ k, (s.answered seg f rest .ok []).group k = s.group k := by simp [State.answered]
    have hrecord := record_bound_retagged h l v p (f.pair .ok []) tag seg
    rw [← hb] at hrecord
    have hsame := rewrites_same_record hrw hgroups
    have hnew := rewrites_new_record hrw hgroups
    obtain ⟨hframe, hbinding, hothers, -⟩ := hrw
    refine ⟨_, hexec, ?_, ?_, hothers, ?_, ?_⟩
    · rw [← replyTo_retag hk]
      exact hframe
    · rw [hbinding, Frame.pair, hk]
      rfl
    · exact fun htag hseg => hsame (hrecord.mpr ⟨htag, hseg⟩)
    · intro hne
      refine hnew (fun heq => ?_)
      obtain ⟨htag, hseg⟩ := hrecord.mp heq
      exact hne.elim (absurd htag) (absurd hseg)
  · intro hc
    rw [hexec, runRetag_contested (by simpa using hc) seg tag, contestedAnswer, State.deliverCached_same]
    rfl

end Sys2Proof.Machine
end

section
/-! PROOFS. REMOVE-MEMBER (R150): the parameters it takes, what leaves the list, and which records the removal changes. -/

namespace Sys2Proof.Machine

/-! ### The command by its parameters -/

/-- A group number or an address out of range is not accepted. -/
theorem memberParams?_none {number address : Byte} (h : groupOf? number = none ∨ addrOf? address = none) :
    memberParams? [number, address] = none := by
  rcases h with h | h
  · simp [memberParams?, h]
  · cases hg : groupOf? number <;> simp [memberParams?, hg, h]

/-- A group number and an address in range are the two parameters. -/
theorem memberParams?_some {number address : Byte} {g : GroupNo} {a : Addr} (hg : groupOf? number = some g)
    (ha : addrOf? address = some a) : memberParams? [number, address] = some (g, a) := by
  simp [memberParams?, hg, ha]

/-- REMOVE-MEMBER with accepted parameters runs (R179). -/
theorem exec_removeMember {s : State} {ps : List Byte} {g : GroupNo} {a : Addr} (hs : s.executing codeRemoveMember ps)
    (hps : memberParams? ps = some (g, a)) : exec .removeMember s = .next (s.complete (removeMemberOf (g, a) s)) :=
  congrArg Host.Outcome.next (State.runCommand_param hs hps removeMemberOf)

/-- REMOVE-MEMBER with parameters out of range is answered BAD-PARAMETER (R179). -/
theorem exec_removeMember_bad {s : State} {ps : List Byte} (hs : s.executing codeRemoveMember ps)
    (hps : memberParams? ps = none) : exec .removeMember s = .next (s.replied .badParameter []) :=
  congrArg Host.Outcome.next (State.runCommand_bad hs hps removeMemberOf)

/-- An UNUSED group has no members to remove (R150). -/
theorem removeMemberOf_unused {s : State} {g : GroupNo} (hg : s.group g = .unused) (a : Addr) :
    removeMemberOf (g, a) s = failed .wrongState s := by
  simp [removeMemberOf, hg]

/-- An address that is not in the list cannot be removed (R150). -/
theorem removeMemberOf_absent {s : State} {g : GroupNo} {limit : Nat} {p : JoinPolicy} {m : List Addr} {a : Addr}
    (hg : s.group g = .opened limit p m) (ha : a ∉ m) : removeMemberOf (g, a) s = failed .noSuch s := by
  simp [removeMemberOf, hg, ha]

/-- A member is removed, and the members left are counted (R150). -/
theorem removeMemberOf_member {s : State} {g : GroupNo} {limit : Nat} {p : JoinPolicy} {m : List Addr} {a : Addr}
    (hg : s.group g = .opened limit p m) (ha : a ∈ m) :
    removeMemberOf (g, a) s =
      { state := s.removeMember g limit p m a, status := .done, data := [BitVec.ofNat 8 (dropAddr a m).length] } := by
  simp [removeMemberOf, hg, ha]

/-! ### The list without the address -/

theorem mem_dropAddr {a b : Addr} {q : List Addr} : b ∈ dropAddr a q ↔ b ∈ q ∧ b ≠ a := by
  simp [dropAddr]

theorem dropAddr_of_not_mem {a : Addr} {q : List Addr} (h : a ∉ q) : dropAddr a q = q :=
  List.filter_eq_self.mpr (fun _ hb => decide_eq_true (fun hba => h (hba ▸ hb)))

/-- An address that stands once leaves the place where it stood, and the others keep theirs (R143). -/
theorem dropAddr_append_cons {a : Addr} {front back : List Addr} (hf : a ∉ front) (hb : a ∉ back) :
    dropAddr a (front ++ a :: back) = front ++ back := by
  have hback : dropAddr a (a :: back) = dropAddr a back := by simp [dropAddr]
  calc dropAddr a (front ++ a :: back)
      = dropAddr a front ++ dropAddr a (a :: back) := List.filter_append ..
    _ = front ++ back := by rw [hback, dropAddr_of_not_mem hf, dropAddr_of_not_mem hb]

/-- The pool gets one entry back for an address that stands once (R142). -/
theorem State.removeMember_append_cons {a : Addr} {front back : List Addr} (hf : a ∉ front) (hb : a ∉ back)
    (g : GroupNo) (limit : Nat) (p : JoinPolicy) (s : State) :
    s.removeMember g limit p (front ++ a :: back) a =
      { s with groups := s.groups.set g.val (.opened limit p (front ++ back)), poolFree := s.poolFree + 1 } := by
  have hcount : (front ++ a :: back).count a = 1 := by
    simp [List.count_eq_zero.mpr hf, List.count_eq_zero.mpr hb]
  rw [State.removeMember, dropAddr_append_cons hf hb, hcount]
  rfl

/-! ### The records a membership changes -/

/-- An application that changed the membership of one address in one group, and nothing else that counts, changed the
binding record of that address and the group record (R25). -/
theorem changedRecords_membership {s t : State} {a : Addr} {g : GroupNo} (hb : ∀ b, t.binding b = s.binding b)
    (hk : ∀ k, k ≠ g → t.group k = s.group k) (hr : (s.group g).record ≠ (t.group g).record)
    (ho : ∀ b, b ≠ a → (b ∈ (s.group g).members ↔ b ∈ (t.group g).members))
    (ha : ¬ (a ∈ (s.group g).members ↔ a ∈ (t.group g).members)) :
    changedRecords s t [] = [.addr a, .group g] := by
  have hothers : ∀ b, b ≠ a → s.groupsOf b = t.groupsOf b := by
    intro b hba
    refine List.filter_congr (fun k _ => ?_)
    by_cases hkg : k = g
    · subst hkg
      simp [ho b hba]
    · rw [hk k hkg]
  have hmine : s.groupsOf a ≠ t.groupsOf a := by
    intro heq
    have hmem : g ∈ s.groupsOf a ↔ g ∈ t.groupsOf a := by rw [heq]
    simp only [State.groupsOf, List.mem_filter, mem_allGroups, List.contains_iff_mem, true_and] at hmem
    exact ha hmem
  have haddrs : allAddrs.filter (bindingChanged s t []) = [a] := by
    rw [filter_only nodup_allAddrs (mem_allAddrs a) (fun b hba => by simp [bindingChanged, hb, hothers b hba])]
    simp [bindingChanged, hmine]
  have hgroups : allGroups.filter (groupChanged s t) = [g] := by
    rw [filter_only nodup_allGroups (mem_allGroups g) (fun k hkg => by simp [groupChanged, hk k hkg])]
    simp [groupChanged, hr]
  rw [changedRecords, haddrs, hgroups]
  rfl

/-- Removing a member changes the record of its binding and that of the group (R25). -/
theorem changedRecords_removeMember {s : State} {g : GroupNo} {limit : Nat} {p : JoinPolicy} {m : List Addr} {a : Addr}
    (hg : s.group g = .opened limit p m) (ha : a ∈ m) :
    changedRecords s (s.removeMember g limit p m a) [] = [.addr a, .group g] := by
  have hnot : a ∉ dropAddr a m := fun h => (mem_dropAddr.mp h).2 rfl
  apply changedRecords_membership
  case hb => simp
  case hk => exact fun k hkg => (State.group_member_ne g limit p m a hkg s).2
  case hr =>
    intro heq
    have hm : m = dropAddr a m := by simpa [hg, GroupRecord.record] using heq
    exact hnot (hm ▸ ha)
  case ho =>
    intro b hba
    simp [hg, GroupRecord.members, mem_dropAddr, hba]
  case ha => simpa [hg, GroupRecord.members, ha] using hnot

/-- A removal ends with the two changes counted, and unbinds nobody (R26, R27). -/
theorem commit_removeMember {s : State} {g : GroupNo} {limit : Nat} {p : JoinPolicy} {m : List Addr} {a : Addr}
    (hg : s.group g = .opened limit p m) (ha : a ∈ m) :
    commit s [] (s.removeMember g limit p m a) =
      { s.removeMember g limit p m a with
        generation := nextGeneration (nextGeneration s.generation)
        marks := putMark (.group g) (putMark (.addr a) s.marks) } := by
  have hbound : ∀ b, (s.binding b).isBound = true →
      ((s.removeMember g limit p m a).binding b).isBound = true := by simp
  rw [commit_of_bound hbound, changedRecords_removeMember hg ha]
  rfl

/-- Settles O50: the three failures change the port alone; a removal is the list and the pool with one entry moved, and
the two changes its end counts. -/
theorem removeMemberTakesTheAddressOut : Obligations.RemoveMemberTakesTheAddressOut := by
  intro s number address hs
  refine ⟨fun h => exec_removeMember_bad hs (memberParams?_none h), fun g a hnumber haddress => ?_⟩
  have hexec := exec_removeMember hs (memberParams?_some hnumber haddress)
  refine ⟨fun hg => ?_, fun limit p m hg ha => ?_, fun limit p front back hg hf hb => ?_⟩
  · rw [hexec, removeMemberOf_unused hg, State.complete_failed]
  · rw [hexec, removeMemberOf_absent hg ha, State.complete_failed]
  · have hmem : a ∈ front ++ a :: back := by simp
    refine ⟨_, hexec, ?_⟩
    rw [removeMemberOf_member hg hmem, State.complete_eq, commit_removeMember hg hmem,
      State.removeMember_append_cons hf hb, dropAddr_append_cons hf hb, List.length_append]
    exact ⟨rfl, rfl, rfl⟩

end Sys2Proof.Machine
end

section
/-! PROOFS. What a step can do to the directory: every application is a chain of a few kinds of edit of the table, the two
address queues, the memberships, the admission unit, the phase and the policy. Each law of the directory is then shown of one
edit at a time. -/

namespace Sys2Proof.Machine

/-! ### The directory alone -/

/-- The two states hold the same directory; lines, listings, port, factors, generation number and change set may differ. -/
structure State.SameDirectory (s t : State) : Prop where
  binding : ∀ a, t.binding a = s.binding a
  freeQueue : t.freeQueue = s.freeQueue
  holdQueue : t.holdQueue = s.holdQueue
  phase : t.phase = s.phase
  policy : t.policy = s.policy
  admission : t.admission = s.admission
  barred : t.barred = s.barred
  group : ∀ g, t.group g = s.group g
  poolFree : t.poolFree = s.poolFree

theorem State.SameDirectory.rfl {s : State} : s.SameDirectory s := by constructor <;> simp

theorem State.SameDirectory.trans {s t u : State} (h : s.SameDirectory t) (k : t.SameDirectory u) : s.SameDirectory u := by
  constructor <;> simp [h.binding, h.freeQueue, h.holdQueue, h.phase, h.policy, h.admission, h.barred, h.group, h.poolFree,
    k.binding, k.freeQueue, k.holdQueue, k.phase, k.policy, k.admission, k.barred, k.group, k.poolFree]

theorem State.SameDirectory.offeredCount {s t : State} (h : s.SameDirectory t) : t.offeredCount = s.offeredCount := by
  simp [State.offeredCount, State.countBindings, h.binding]

/-! ### Edits -/

/-- The record `b` may take the place of that of `a`. A `tame` edit gives no identity a standing it had not. -/
structure State.Admits (tame : Bool) (s : State) (a : Addr) (b : Binding) : Prop where
  parties : tame = true → b.parties.Sublist (s.binding a).parties
  reserved : tame = true → (s.binding a).state = .reserved → b.state = .reserved ∨ b.parties = []
  offered : b.state = .offered → (s.binding a).state = .offered ∨ (s.atOfferLimit = false ∧ s.phase.isRecall = false)
  counts : s.policy.inRange = true → (s.binding a).countsLawful s.phase.isStopped = true →
    b.countsLawful s.phase.isStopped = true
  belongs : s.QueuesAgree → s.MembersStand → b.mayBelong = true ∨ ∀ g, a ∉ (s.group g).members
  fits : (∀ c, (s.binding c).fits = true) → (∀ e ∈ s.admission, e.tag.length ≤ 8) → b.fits = true

/-- One edit of the directory. `short` is the condition under which the replies that are cached are short enough. -/
inductive Edit (tame : Bool) (short : Prop) (s : State) : State → Prop
  /-- nothing of the directory changes -/
  | same {t : State} (h : s.SameDirectory t) : Edit tame short s t
  /-- a record is rewritten and its address stays in the queue it is in -/
  | put (a : Addr) (b : Binding) (h : s.Admits tame a b) (hfree : b.state = .free ↔ (s.binding a).state = .free)
      (hheld : b.state = .held ↔ (s.binding a).state = .held) : Edit tame short s (s.setBinding a b)
  /-- a record enters a state that calls for no queue -/
  | enter (a : Addr) (b : Binding) (h : s.Admits tame a b) (hfree : b.state ≠ .free) (hheld : b.state ≠ .held) :
      Edit tame short s ((s.setBinding a b).leaveQueues a)
  /-- the record of an address that belongs to no group enters FREE -/
  | free (p : FreePlace) (a : Addr) (h : ∀ g, a ∉ (s.group g).members) :
      Edit tame short s (((s.setBinding a .free).leaveQueues a).joinFree p a)
  /-- a record enters HELD -/
  | hold (former : Option Holder) (n : Bool) (a : Addr)
      (h : s.Admits tame a (.held former (Countdown.fresh s.policy.holdPeriod))) :
      Edit tame short s (s.enterHold former n a)
  /-- a reply is cached in a bound record -/
  | cache (a : Addr) (r : Replay) (h : short → r.rest.length ≤ 39) : Edit tame short s (s.cacheReply a r)
  /-- an address leaves every group -/
  | drop (a : Addr) : Edit tame short s (s.dropMember a)
  /-- admission entries leave the queue, or stay with wait and tag -/
  | entries (q : List AdmissionEntry) (hi : (q.map (·.identity)).Sublist (s.admission.map (·.identity)))
      (hw : ∀ e ∈ q, ∃ d ∈ s.admission, e.wait = d.wait ∧ e.tag = d.tag) : Edit tame short s { s with admission := q }
  /-- an identity joins the admission queue -/
  | entry (h : Holder) (ht : tame = false) (hp : s.phase.isRecall = false) (hl : h.tag.length ≤ 8) :
      Edit tame short s (s.addEntry h)
  /-- the barred set is edited -/
  | barred (q : List Identity) (h : tame = true → q.Sublist s.barred) : Edit tame short s { s with barred := q }
  /-- the policy is replaced -/
  | policy (p : Policy) (hp : p.inRange = true) (hl : s.offeredCount ≤ p.offerLimit) :
      Edit tame short s { s with policy := p }
  /-- the phase becomes RUNNING -/
  | running : Edit tame short s { s with phase := .running }
  /-- the phase becomes RECALL, and no offer or entry is left -/
  | recalling (w : Nat) (hlo : 1 ≤ w) (hhi : w ≤ 60) (ho : s.offeredCount = 0) :
      Edit tame short s { s with phase := .recall (Countdown.fresh w), admission := [] }
  /-- the phase becomes STOPPED, and every count stands still -/
  | stop : Edit tame short s { s.stopTimers with phase := .stopped }
  /-- a second passes -/
  | tick (h : s.phase.isStopped = false) : Edit tame short s s.tick
  /-- a group is opened, closed, joined or left -/
  | regroup (g : GroupNo) (r : GroupRecord) (n : Nat) (hn : n + r.members.length = s.poolFree + (s.group g).members.length)
      (hl : (s.group g).lawful = true → r.lawful = true)
      (hm : ∀ a ∈ r.members, a ∈ (s.group g).members ∨ (s.binding a).isBound = true) :
      Edit tame short s { s.setGroup g r with poolFree := n }
  /-- the table is cleared -/
  | clear {t : State} (kr kg : Bool) (h : (s.clearTable kr kg).SameDirectory t) (hs : s.phase.isStopped = true) :
      Edit tame short s t
  /-- the part is reset -/
  | reset {t : State} (h : State.reset.SameDirectory t) : Edit tame short s t

theorem sublist_of_eq {α : Type} {l m : List α} (h : l = m) : l.Sublist m := by
  subst h
  exact .refl l

/-- Zero or more steps of a relation, one after the other. -/
inductive Chain {α : Type} (r : α → α → Prop) : α → α → Prop
  | refl {x : α} : Chain r x x
  | tail {x y z : α} (h : Chain r x y) (k : r y z) : Chain r x z

@[refl] theorem Chain.reflexive {α : Type} {r : α → α → Prop} {x : α} : Chain r x x := .refl

theorem Chain.single {α : Type} {r : α → α → Prop} {x y : α} (h : r x y) : Chain r x y := Chain.refl.tail h

theorem Chain.trans {α : Type} {r : α → α → Prop} {x y z : α} (h : Chain r x y) (k : Chain r y z) : Chain r x z := by
  induction k with
  | refl => exact h
  | tail _ k ih => exact ih.tail k

theorem Chain.head {α : Type} {r : α → α → Prop} {x y z : α} (h : r x y) (k : Chain r y z) : Chain r x z :=
  (Chain.single h).trans k

/-- A chain of edits. -/
abbrev Edits (tame : Bool) (short : Prop) : State → State → Prop := Chain (Edit tame short)

theorem Edits.one {tame : Bool} {short : Prop} {s t : State} (h : Edit tame short s t) : Edits tame short s t :=
  Chain.single h

theorem Edits.trans {tame : Bool} {short : Prop} {s t u : State} (h : Edits tame short s t) (k : Edits tame short t u) :
    Edits tame short s u :=
  Chain.trans h k

/-- What every edit keeps, a chain of edits keeps. -/
theorem Edits.keep {tame : Bool} {short : Prop} {P : State → Prop} (hP : ∀ {s t}, Edit tame short s t → P s → P t)
    {s t : State} (h : Edits tame short s t) (hs : P s) : P t := by
  induction h with
  | refl => exact hs
  | tail _ h ih => exact hP h ih

/-- A chain goes on in a state of the same directory. -/
theorem Edits.then_same {tame : Bool} {short : Prop} {s t u : State} (h : Edits tame short s t) (k : t.SameDirectory u) :
    Edits tame short s u := h.tail (.same k)

/-! ### The queues (R19) -/

theorem count_dropAddr (a b : Addr) (q : List Addr) : (dropAddr a q).count b = if b = a then 0 else q.count b := by
  unfold dropAddr
  split
  · rename_i h; subst h; simp [List.count_eq_zero]
  · rename_i h; rw [List.count_filter (by simpa using h)]

theorem count_insertBefore {α : Type} [DecidableEq α] (p : α → Bool) (a b : α) (q : List α) :
    (insertBefore p a q).count b = q.count b + if a = b then 1 else 0 := by
  induction q with
  | nil => simp [insertBefore, List.count_cons]
  | cons x xs ih =>
    simp only [insertBefore]
    split
    · simp [List.count_cons]
    · simp only [List.count_cons, ih]; omega

/-- An address that joins the free queue joins it once. -/
theorem State.count_joinFree (p : FreePlace) (a b : Addr) (s : State) :
    (s.joinFree p a).freeQueue.count b = s.freeQueue.count b + if a = b then 1 else 0 := by
  cases p <;> simp [State.joinFree, count_insertBefore, List.count_append, List.count_cons]

/-- An address that joins the hold queue joins it once. -/
theorem State.count_joinHold (n : Bool) (a b : Addr) (s : State) :
    (s.joinHold n a).holdQueue.count b = s.holdQueue.count b + if a = b then 1 else 0 := by
  cases n <;> simp [State.joinHold, count_insertBefore, List.count_append, List.count_cons]

/-- The law of the queues reads the queues and the names of the states alone. -/
theorem State.QueuesAgree.congr {s t : State} (h : s.QueuesAgree) (hf : t.freeQueue = s.freeQueue)
    (hh : t.holdQueue = s.holdQueue)
    (hb : ∀ a, ((t.binding a).state = .free ↔ (s.binding a).state = .free)
      ∧ ((t.binding a).state = .held ↔ (s.binding a).state = .held)) : t.QueuesAgree := by
  intro a
  have := h a
  simp only [hf, hh, hb a]
  exact this

/-- A record that enters a state, its address leaving both queues and joining the one the state calls for. -/
theorem State.QueuesAgree.moved {s t : State} {a : Addr} (h : s.QueuesAgree)
    (hf : ∀ b, t.freeQueue.count b = (dropAddr a s.freeQueue).count b
      + if a = b ∧ (t.binding a).state = .free then 1 else 0)
    (hh : ∀ b, t.holdQueue.count b = (dropAddr a s.holdQueue).count b
      + if a = b ∧ (t.binding a).state = .held then 1 else 0)
    (ho : othersKept s t a) : t.QueuesAgree := by
  intro b
  rw [hf, hh, count_dropAddr, count_dropAddr]
  by_cases hb : b = a
  · subst hb; simp
  · simpa [hb, Ne.symm hb, ho b hb] using h b

theorem Binding.state_cleared (k : Bool) (b : Binding) : (b.cleared k).state ≠ .held
    ∧ ((b.cleared k).state = .free ↔ b.cleared k = .free) := by
  unfold Binding.cleared
  split
  · cases k <;> simp [Binding.state]
  · simp [Binding.state]

theorem Binding.state_stopTimers (b : Binding) : b.stopTimers.state = b.state := by cases b <;> rfl

theorem Binding.state_tick (b : Binding) : b.tick.state = b.state := by cases b <;> rfl

theorem State.binding_clearTable (kr kg : Bool) (s : State) (a : Addr) :
    (s.clearTable kr kg).binding a = (s.binding a).cleared kr := by
  simp [State.clearTable, State.binding]

theorem State.binding_stopTimers (s : State) (a : Addr) : s.stopTimers.binding a = (s.binding a).stopTimers := by
  simp [State.stopTimers, State.binding]

theorem binding_reset (a : Addr) : State.reset.binding a = .free := by
  simp [State.reset, State.binding]

theorem group_reset (g : GroupNo) : State.reset.group g = .unused := by
  simp [State.reset, State.group]

theorem State.queues_clearTable (kr kg : Bool) (s : State) : (s.clearTable kr kg).QueuesAgree := by
  intro a
  have hq : (s.clearTable kr kg).freeQueue
      = allAddrs.filter (fun a => decide ((s.clearTable kr kg).binding a = .free)) := by
    simp only [State.binding_clearTable]
    simp only [State.clearTable, State.binding, State.endListing_keeps, Vector.getElem_map]
    rfl
  have hn : (s.clearTable kr kg).holdQueue = [] := by simp [State.clearTable]
  have hst := Binding.state_cleared kr (s.binding a)
  rw [hq, hn]
  by_cases h : (s.binding a).cleared kr = .free
  · rw [List.count_filter (by simpa [State.binding_clearTable] using h), nodup_allAddrs.count, if_pos (mem_allAddrs a)]
    simp [State.binding_clearTable, h, Binding.state]
  · rw [List.count_eq_zero.mpr (by simp [State.binding_clearTable, h])]
    simp [State.binding_clearTable, hst, h]

theorem queues_reset : State.reset.QueuesAgree := by
  intro a
  simp [binding_reset, Binding.state]
  simp [State.reset, (List.nodup_finRange 96).count]

/-- Every edit keeps each address in the queue its state calls for (R19). -/
theorem Edit.queues {tame : Bool} {short : Prop} {s t : State} (e : Edit tame short s t) (h : s.QueuesAgree) :
    t.QueuesAgree := by
  cases e with
  | same k => exact h.congr k.freeQueue k.holdQueue (by simp [k.binding])
  | put a b _ hfree hheld =>
    refine h.congr (by simp) (by simp) (fun c => ?_)
    rw [State.binding_setBinding]
    split
    · rename_i hc; subst hc; exact ⟨hfree, hheld⟩
    · simp
  | enter a b _ hfree hheld =>
    exact h.moved (a := a) (by simp [hfree]) (by simp [hheld]) (fun c hc => by simp [hc])
  | free p a _ =>
    refine h.moved (a := a) (fun b => ?_) (by simp [Binding.state]) (fun c hc => by simp [hc])
    simp [State.count_joinFree, Binding.state]
  | hold former n a _ =>
    refine h.moved (a := a) (by simp [State.enterHold, Binding.state]) (fun b => ?_) (fun c hc => by simp [hc])
    simp [State.enterHold, State.count_joinHold, Binding.state]
  | cache a r _ =>
    refine h.congr (by simp) (by simp) (fun c => ?_)
    by_cases hc : c = a
    · subst hc; rw [State.cacheReply_binding]; split <;> simp_all [Binding.state]
    · simp [hc]
  | stop =>
    refine h.congr rfl rfl (fun c => ?_)
    have : ({ s.stopTimers with phase := .stopped } : State).binding c = (s.binding c).stopTimers :=
      State.binding_stopTimers s c
    simp [this, Binding.state_stopTimers]
  | tick _ => exact h.congr rfl rfl (fun c => by simp [State.binding_tick, Binding.state_tick])
  | clear kr kg k _ => exact (State.queues_clearTable kr kg s).congr k.freeQueue k.holdQueue (by simp [k.binding])
  | reset k => exact queues_reset.congr k.freeQueue k.holdQueue (by simp [k.binding])
  | drop a => exact h.congr (by simp) (by simp) (by simp)
  | entry o _ _ _ => exact h.congr rfl rfl (fun c => ⟨Iff.rfl, Iff.rfl⟩)
  | entries _ _ _ | barred _ _ | policy _ _ _ | running | recalling _ _ _ _ | regroup _ _ _ _ _ _ =>
    exact h.congr rfl rfl (fun c => ⟨Iff.rfl, Iff.rfl⟩)

end Sys2Proof.Machine
end

section
/-! PROOFS. The laws of offers and counts (R2, R16, R17, R66, R78, R79) and of the member pool (R142, R143, R152), of one
edit at a time. -/

namespace Sys2Proof.Machine

/-! ### Offers (R66, R78) -/

/-- Where no binding but that of `a` enters OFFERED, the count of OFFERED bindings grows by at most one. -/
theorem State.countBindings_le {s t : State} {p : Binding → Bool}
    (h : ∀ b, p (t.binding b) = true → p (s.binding b) = true) : t.countBindings p ≤ s.countBindings p := by
  unfold State.countBindings
  exact List.countP_mono_left (fun b _ => h b)

theorem State.offeredCount_le {s t : State}
    (h : ∀ b, (t.binding b).state = .offered → (s.binding b).state = .offered) : t.offeredCount ≤ s.offeredCount :=
  State.countBindings_le (fun b hb => by simpa using h b (by simpa using hb))

theorem countP_le_succ {α : Type} {p q : α → Bool} {a : α} : ∀ {l : List α}, l.Nodup →
    (∀ b ∈ l, b ≠ a → p b = true → q b = true) → l.countP p ≤ l.countP q + 1
  | [], _, _ => by simp
  | x :: xs, hn, h => by
    rw [List.nodup_cons] at hn
    simp only [List.countP_cons]
    by_cases hx : x = a
    · subst hx
      have : xs.countP p ≤ xs.countP q :=
        List.countP_mono_left (fun b hb => h b (by simp [hb]) (fun hbx => hn.1 (hbx ▸ hb)))
      split <;> split <;> omega
    · have := countP_le_succ hn.2 (fun b hb => h b (by simp [hb]))
      have := h x (by simp) hx
      split <;> split <;> first | omega | simp_all

theorem State.offeredCount_le_succ {s t : State} {a : Addr} (h : othersKept s t a) :
    t.offeredCount ≤ s.offeredCount + 1 := by
  unfold State.offeredCount State.countBindings
  exact countP_le_succ (a := a) nodup_allAddrs (fun b _ hb hp => by simpa [h b hb] using hp)

/-- A record that is admitted keeps the offers within the limit. -/
theorem State.Admits.offersLimited {tame : Bool} {s t : State} {a : Addr} {b : Binding} (k : s.Admits tame a b)
    (hb : t.binding a = b) (ho : othersKept s t a) (hp : t.phase = s.phase) (hl : t.policy = s.policy)
    (ha : s.admission = [] → t.admission = []) (h : s.OffersLimited) : t.OffersLimited := by
  have hless : (b.state = .offered → (s.binding a).state = .offered) → t.offeredCount ≤ s.offeredCount := by
    intro hs
    apply State.offeredCount_le
    intro c hc
    by_cases hca : c = a
    · subst hca; exact hs (hb ▸ hc)
    · rwa [ho c hca] at hc
  obtain ⟨hlim, hrec⟩ := h
  by_cases hs : b.state = .offered → (s.binding a).state = .offered
  · have := hless hs
    refine ⟨by rw [hl]; omega, fun hr => ?_⟩
    rw [hp] at hr
    exact ⟨by have := (hrec hr).1; omega, ha (hrec hr).2⟩
  · rw [Classical.not_imp] at hs
    rcases k.offered hs.1 with h' | ⟨hat, hnr⟩
    · exact absurd h' hs.2
    · have hlt : s.offeredCount < s.policy.offerLimit := by simpa [State.atOfferLimit] using hat
      have := State.offeredCount_le_succ ho
      refine ⟨by rw [hl]; omega, fun hr => ?_⟩
      rw [hp, hnr] at hr
      cases hr

/-- Where no binding enters OFFERED, phase and policy stay and no entry is added, the offers stay within the limit. -/
theorem State.OffersLimited.fewer {s t : State} (h : s.OffersLimited)
    (hb : ∀ b, (t.binding b).state = .offered → (s.binding b).state = .offered)
    (hp : t.phase.isRecall = true → s.phase.isRecall = true ∧ (s.admission = [] → t.admission = []))
    (hl : t.policy = s.policy) : t.OffersLimited := by
  have hle := State.offeredCount_le hb
  obtain ⟨hlim, hrec⟩ := h
  refine ⟨by rw [hl]; omega, fun hr => ?_⟩
  obtain ⟨hr', ha⟩ := hp hr
  exact ⟨by have := (hrec hr').1; omega, ha (hrec hr').2⟩

theorem State.state_cacheReply (a c : Addr) (r : Replay) (s : State) :
    ((s.cacheReply a r).binding c).state = (s.binding c).state := by
  by_cases hc : c = a
  · subst hc; rw [State.cacheReply_binding]; split <;> simp_all [Binding.state]
  · simp [hc]

theorem Phase.isRecall_tick (p : Phase) : p.tick.isRecall = p.isRecall := by cases p <;> rfl

theorem Phase.isStopped_tick (p : Phase) : p.tick.isStopped = p.isStopped := by cases p <;> rfl

/-- Every edit keeps the offers within the limit, and RECALL without offers and entries (R66, R78). -/
theorem Edit.offersLimited {tame : Bool} {short : Prop} {s t : State} (e : Edit tame short s t) (h : s.OffersLimited) :
    t.OffersLimited := by
  cases e with
  | same k => exact h.fewer (by simp [k.binding]) (by simp [k.phase, k.admission]) k.policy
  | put a b k _ _ => exact k.offersLimited (by simp) (fun c hc => by simp [hc]) (by simp) (by simp) (by simp) h
  | enter a b k _ _ => exact k.offersLimited (by simp) (fun c hc => by simp [hc]) (by simp) (by simp) (by simp) h
  | free p a _ =>
    refine h.fewer (fun c => ?_) (by simp) (by simp)
    by_cases hc : c = a
    · subst hc; simp [Binding.state]
    · simp [hc]
  | hold former n a k => exact k.offersLimited (by simp) (fun c hc => by simp [hc]) (by simp) (by simp) (by simp) h
  | cache a r _ => exact h.fewer (by simp [State.state_cacheReply]) (by simp) (by simp)
  | drop a => exact h.fewer (by simp) (by simp) (by simp)
  | entries q hi _ =>
    refine h.fewer (fun c => id) (fun hr => ⟨hr, fun ha => ?_⟩) rfl
    rw [ha] at hi
    simpa using hi
  | entry o _ hp _ => exact h.fewer (fun c => id) (fun hr => by rw [show (s.addEntry o).phase = s.phase from rfl, hp] at hr; cases hr) rfl
  | barred q _ => exact h.fewer (fun c => id) (fun hr => ⟨hr, id⟩) rfl
  | policy p _ hl => exact ⟨hl, h.2⟩
  | running => exact h.fewer (fun c => id) (fun hr => by cases hr) rfl
  | recalling w _ _ ho => exact ⟨show s.offeredCount ≤ _ by simp [ho], fun _ => ⟨ho, rfl⟩⟩
  | stop =>
    refine h.fewer (fun c => ?_) (fun hr => by cases hr) rfl
    have : ({ s.stopTimers with phase := .stopped } : State).binding c = (s.binding c).stopTimers :=
      State.binding_stopTimers s c
    simp [this, Binding.state_stopTimers]
  | tick _ =>
    refine h.fewer (fun c => by simp [State.binding_tick, Binding.state_tick]) (fun hr => ?_) rfl
    have hr' : s.phase.tick.isRecall = true := hr
    rw [Phase.isRecall_tick] at hr'
    exact ⟨hr', fun ha => by simp [State.tick, ha]⟩
  | regroup g r n _ _ _ => exact h.fewer (fun c => id) (fun hr => ⟨hr, id⟩) rfl
  | clear kr kg k hs =>
    have hno : ∀ c, (t.binding c).state ≠ .offered := by
      intro c
      rw [k.binding, State.binding_clearTable]
      unfold Binding.cleared
      split
      · cases kr <;> simp [Binding.state]
      · simp [Binding.state]
    refine h.fewer (fun c hc => absurd hc (hno c)) (fun hr => ?_) (by simp [k.policy, State.clearTable])
    have : t.phase = s.phase := by simp [k.phase, State.clearTable]
    rw [this] at hr
    cases hp : s.phase <;> simp [hp, Phase.isRecall, Phase.isStopped] at hr hs
  | reset k =>
    have hz : t.offeredCount = 0 := by
      simp [State.offeredCount, State.countBindings, k.binding, binding_reset, Binding.state]
    exact ⟨by omega, fun hr => by rw [k.phase] at hr; cases hr⟩

/-! ### Counts (R2, R16, R17, R79) -/

theorem Countdown.fresh_within {low high n : Nat} (h1 : low ≤ n) (h2 : n ≤ high) (stopped : Bool) :
    (Countdown.fresh n).within low high stopped := ⟨h1, h2, fun h => by cases h⟩

theorem Countdown.within.frozen {low high : Nat} {stopped : Bool} {c : Countdown} (h : c.within low high stopped)
    (stopped' : Bool) : c.frozen.within low high stopped' := ⟨h.1, h.2.1, fun h => by cases h⟩

theorem Countdown.within.running {low high : Nat} {stopped : Bool} {c : Countdown} (h : c.within low high stopped) :
    c.within low high false := ⟨h.1, h.2.1, fun hd => ⟨(h.2.2 hd).1, rfl⟩⟩

/-- A count in its range falls due in its last second alone (R79). -/
theorem Countdown.within.tick {high : Nat} {c : Countdown} (h : c.within 1 high false) : c.tick.within 1 high false := by
  obtain ⟨h1, h2, h3⟩ := h
  unfold Countdown.tick
  split
  · exact ⟨h1, h2, fun _ => ⟨by show c.remaining = 1; omega, rfl⟩⟩
  · refine ⟨by show 1 ≤ c.remaining - 1; omega, by show c.remaining - 1 ≤ high; omega, fun hd => ?_⟩
    have := (h3 hd).1
    omega

theorem Lease.lawful.frozen {stopped : Bool} {l : Lease} (h : l.lawful stopped = true) (stopped' : Bool) :
    l.frozen.lawful stopped' = true := by
  cases l with
  | permanent => rfl
  | timed g r =>
    simp only [Lease.lawful, Lease.frozen, decide_eq_true_eq] at *
    exact ⟨h.1, h.2.1, h.2.2.frozen _⟩

/-- A frozen lease is one that may stand in any phase (R14). -/
theorem Lease.lawful.weaken {l : Lease} {stopped : Bool} (h : l.lawful true = true) : l.lawful stopped = true := by
  cases l with
  | permanent => rfl
  | timed g r =>
    simp only [Lease.lawful, decide_eq_true_eq] at *
    exact ⟨h.1, h.2.1, h.2.2.1, h.2.2.2.1, fun hd => by simpa using (h.2.2.2.2 hd).2⟩

theorem Lease.lawful.running {l : Lease} {stopped : Bool} (h : l.lawful stopped = true) : l.lawful false = true := by
  cases l with
  | permanent => rfl
  | timed g r =>
    simp only [Lease.lawful, decide_eq_true_eq] at *
    exact ⟨h.1, h.2.1, h.2.2.running⟩

theorem Lease.lawful.tick {l : Lease} (h : l.lawful false = true) : l.tick.lawful false = true := by
  cases l with
  | permanent => rfl
  | timed g r =>
    simp only [Lease.lawful, Lease.tick, decide_eq_true_eq] at *
    exact ⟨h.1, h.2.1, h.2.2.tick⟩

theorem Binding.countsLawful.running {stopped : Bool} {b : Binding} (h : b.countsLawful stopped = true) :
    b.countsLawful false = true := by
  cases b with
  | free | reserved _ => rfl
  | offered _ _ _ | held _ _ => simp only [Binding.countsLawful, decide_eq_true_eq] at *; exact h.running
  | bound _ l _ _ => exact Lease.lawful.running (by simpa [Binding.countsLawful] using h)
  | contested _ l _ _ _ k =>
    cases k with
    | none => simpa [Binding.countsLawful] using h
    | some r =>
      simp only [Binding.countsLawful, Bool.and_eq_true, decide_eq_true_eq] at *
      exact ⟨h.1, h.2.running⟩

theorem Binding.countsLawful.stopTimers {stopped : Bool} {b : Binding} (h : b.countsLawful stopped = true) :
    b.stopTimers.countsLawful true = true := by
  cases b with
  | free | reserved _ => rfl
  | offered _ _ _ | held _ _ =>
    simp only [Binding.countsLawful, Binding.stopTimers, decide_eq_true_eq] at *; exact h.frozen _
  | bound _ l _ _ => exact Lease.lawful.frozen (by simpa [Binding.countsLawful] using h) _
  | contested _ l _ _ _ k =>
    cases k with
    | none => exact Lease.lawful.frozen (by simpa [Binding.countsLawful] using h) _
    | some r =>
      simp only [Binding.countsLawful, Binding.stopTimers, Option.map_some, Bool.and_eq_true, decide_eq_true_eq] at *
      exact ⟨Lease.lawful.frozen h.1 _, h.2.frozen _⟩

theorem Binding.countsLawful.tick {b : Binding} (h : b.countsLawful false = true) : b.tick.countsLawful false = true := by
  cases b with
  | free | reserved _ => rfl
  | offered _ _ _ | held _ _ =>
    simp only [Binding.countsLawful, Binding.tick, decide_eq_true_eq] at *; exact h.tick
  | bound _ l _ _ => exact Lease.lawful.tick (by simpa [Binding.countsLawful] using h)
  | contested _ l _ _ _ k =>
    cases k with
    | none => simpa [Binding.countsLawful, Binding.tick] using h
    | some r =>
      simp only [Binding.countsLawful, Binding.tick, Option.map_some, Bool.and_eq_true, decide_eq_true_eq] at *
      exact ⟨h.1, h.2.tick⟩

/-- The last sequence and cached reply are no count. -/
theorem State.countsLawful_cacheReply (a c : Addr) (r : Replay) (stopped : Bool) (s : State) :
    ((s.cacheReply a r).binding c).countsLawful stopped = (s.binding c).countsLawful stopped := by
  by_cases hc : c = a
  · subst hc
    rw [State.cacheReply_binding]
    split
    · simp_all [Binding.countsLawful]
    · rename_i k hb; rw [hb]; cases k <;> rfl
    · rfl
  · simp [hc]

/-- A record that is admitted keeps every count in its range. -/
theorem State.Admits.countsLawful {tame : Bool} {s t : State} {a : Addr} {b : Binding} (k : s.Admits tame a b)
    (hb : t.binding a = b) (ho : othersKept s t a) (hp : t.phase = s.phase) (hl : t.policy = s.policy)
    (ha : t.admission = s.admission) (h : s.CountsLawful) : t.CountsLawful := by
  obtain ⟨hpol, hph, hbs, hadm⟩ := h
  refine ⟨by rwa [hl], by rwa [hp], fun c => ?_, by rw [ha, hp]; exact hadm⟩
  by_cases hc : c = a
  · subst hc; rw [hb, hp]; exact k.counts hpol (hbs c)
  · rw [ho c hc, hp]; exact hbs c

/-- The law of the counts reads policy, phase, table and waits alone. -/
theorem State.CountsLawful.congr {s t : State} (h : s.CountsLawful) (hp : t.phase = s.phase) (hl : t.policy = s.policy)
    (hb : ∀ a, (s.binding a).countsLawful s.phase.isStopped = true → (t.binding a).countsLawful s.phase.isStopped = true)
    (hw : ∀ e ∈ t.admission, ∃ d ∈ s.admission, e.wait = d.wait) : t.CountsLawful := by
  obtain ⟨hpol, hph, hbs, hadm⟩ := h
  refine ⟨by rwa [hl], by rwa [hp], fun a => by rw [hp]; exact hb a (hbs a), fun e he => ?_⟩
  obtain ⟨d, hd, hwd⟩ := hw e he
  rw [hp, hwd]
  exact hadm d hd

theorem Phase.countLawful.tick {p : Phase} (h : p.countLawful = true) : p.tick.countLawful = true := by
  match p with
  | .stopped | .running => rfl
  | .recall r =>
    simp only [Phase.countLawful, Phase.tick, decide_eq_true_eq] at *
    exact Countdown.within.tick h

theorem Policy.inRange_default : Policy.default.inRange = true := by decide

/-- Every edit keeps every count in its range and the policy one that SET-POLICY accepts (R2, R16, R79, R184). -/
theorem Edit.countsLawful {tame : Bool} {short : Prop} {s t : State} (e : Edit tame short s t) (h : s.CountsLawful) :
    t.CountsLawful := by
  cases e with
  | same k => exact h.congr k.phase k.policy (by simp [k.binding]) (by rw [k.admission]; exact fun e he => ⟨e, he, rfl⟩)
  | put a b k _ _ => exact k.countsLawful (by simp) (fun c hc => by simp [hc]) (by simp) (by simp) (by simp) h
  | enter a b k _ _ => exact k.countsLawful (by simp) (fun c hc => by simp [hc]) (by simp) (by simp) (by simp) h
  | free p a _ =>
    refine h.congr (by simp) (by simp) (fun c hc => ?_) (fun e he => ⟨e, by simpa using he, rfl⟩)
    by_cases hca : c = a
    · subst hca; simp [Binding.countsLawful]
    · simpa [hca] using hc
  | hold former n a k => exact k.countsLawful (by simp) (fun c hc => by simp [hc]) (by simp) (by simp) (by simp) h
  | cache a r _ =>
    exact h.congr (by simp) (by simp) (by simp [State.countsLawful_cacheReply]) (fun e he => ⟨e, by simpa using he, rfl⟩)
  | drop a => exact h.congr (by simp) (by simp) (by simp) (fun e he => ⟨e, by simpa using he, rfl⟩)
  | entries q _ hw =>
    exact h.congr rfl rfl (fun c hc => hc) (fun e he => (hw e he).imp (fun d hd => ⟨hd.1, hd.2.1⟩))
  | entry o _ _ _ =>
    obtain ⟨hpol, hph, hbs, hadm⟩ := h
    refine ⟨hpol, hph, hbs, fun e he => ?_⟩
    rcases List.mem_append.mp he with he | he
    · exact hadm e he
    · rw [List.mem_singleton] at he
      subst he
      simp only [Policy.inRange, decide_eq_true_eq] at hpol
      exact Countdown.fresh_within (by omega) (by omega) _
  | barred q _ | regroup g r n _ _ _ => exact h.congr rfl rfl (fun c hc => hc) (fun e he => ⟨e, he, rfl⟩)
  | policy p hp _ => exact ⟨hp, h.2⟩
  | running =>
    obtain ⟨hpol, hph, hbs, hadm⟩ := h
    exact ⟨hpol, rfl, fun c => Binding.countsLawful.running (hbs c), fun e he => (hadm e he).running⟩
  | recalling w hlo hhi _ =>
    obtain ⟨hpol, hph, hbs, hadm⟩ := h
    refine ⟨hpol, decide_eq_true (Countdown.fresh_within hlo hhi _), fun c => Binding.countsLawful.running (hbs c), ?_⟩
    intro e he
    cases he
  | stop =>
    obtain ⟨hpol, hph, hbs, hadm⟩ := h
    refine ⟨hpol, rfl, fun c => ?_, fun e he => ?_⟩
    · have : ({ s.stopTimers with phase := .stopped } : State).binding c = (s.binding c).stopTimers :=
        State.binding_stopTimers s c
      rw [this]
      exact Binding.countsLawful.stopTimers (hbs c)
    · obtain ⟨d, hd, rfl⟩ := List.mem_map.mp he
      exact (hadm d hd).frozen _
  | tick hs =>
    obtain ⟨hpol, hph, hbs, hadm⟩ := h
    have hst : s.tick.phase.isStopped = false := (Phase.isStopped_tick _).trans hs
    rw [hs] at hbs hadm
    refine ⟨hpol, ?_, fun c => ?_, fun e he => ?_⟩
    · exact Phase.countLawful.tick hph
    · rw [State.binding_tick, hst]; exact Binding.countsLawful.tick (hbs c)
    · obtain ⟨d, hd, rfl⟩ := List.mem_map.mp he
      rw [hst]
      exact (hadm d hd).tick
  | clear kr kg k _ =>
    refine h.congr (by simp [k.phase, State.clearTable]) (by simp [k.policy, State.clearTable]) (fun c _ => ?_)
      (by rw [k.admission]; simp [State.clearTable])
    rw [k.binding, State.binding_clearTable]
    unfold Binding.cleared
    split
    · cases kr <;> rfl
    · rfl
  | reset k =>
    refine ⟨by rw [k.policy]; exact Policy.inRange_default, by rw [k.phase]; rfl, fun c => ?_, fun e he => ?_⟩
    · rw [k.binding, binding_reset]; rfl
    · rw [k.admission] at he; cases he

end Sys2Proof.Machine
end

section
/-! PROOFS. The laws of the member pool and its members (R142, R143, R152) and the lengths of tags and cached replies (R2,
R37), of one edit at a time. -/

namespace Sys2Proof.Machine

/-! ### Member entries (R142, R143) -/

/-- The member entries in use. -/
def State.entriesInUse (s : State) : Nat := (allGroups.map (fun g => (s.group g).members.length)).sum

/-- A sum over a list without duplicates, with the term of one place replaced. -/
theorem sum_map_replace {α : Type} {f f' : α → Nat} {a : α} : ∀ {l : List α}, l.Nodup → a ∈ l →
    (∀ b, b ≠ a → f' b = f b) → (l.map f').sum + f a = (l.map f).sum + f' a
  | [], _, ha, _ => by cases ha
  | x :: xs, hn, ha, h => by
    rw [List.nodup_cons] at hn
    simp only [List.map_cons, List.sum_cons]
    by_cases hx : x = a
    · subst hx
      have : xs.map f' = xs.map f := List.map_congr_left (fun b hb => h b (fun hbx => hn.1 (hbx ▸ hb)))
      rw [this]; omega
    · have := sum_map_replace hn.2 ((List.mem_cons.mp ha).resolve_left (Ne.symm hx)) h
      have := h x hx
      omega

theorem sum_map_zero {α : Type} {f : α → Nat} {l : List α} (h : ∀ x ∈ l, f x = 0) : (l.map f).sum = 0 := by
  induction l with
  | nil => rfl
  | cons x l ih =>
    rw [List.map_cons, List.sum_cons, h x List.mem_cons_self, ih (fun y hy => h y (List.mem_cons_of_mem x hy))]

theorem sum_map_plus {α : Type} (f g : α → Nat) (l : List α) :
    (l.map (fun x => f x + g x)).sum = (l.map f).sum + (l.map g).sum := by
  induction l with
  | nil => rfl
  | cons x l ih =>
    rw [List.map_cons, List.map_cons, List.map_cons, List.sum_cons, List.sum_cons, List.sum_cons, ih]
    omega

theorem State.entriesInUse_congr {s t : State} (h : ∀ g, t.group g = s.group g) : t.entriesInUse = s.entriesInUse := by
  simp [State.entriesInUse, h]

theorem length_dropAddr (a : Addr) (m : List Addr) : (dropAddr a m).length + m.count a = m.length := by
  induction m with
  | nil => rfl
  | cons x xs ih =>
    by_cases hx : x = a
    · subst hx; simp [dropAddr] at *; omega
    · simp [dropAddr, hx] at *; omega

theorem GroupRecord.members_drop (a : Addr) (r : GroupRecord) : (r.drop a).members = dropAddr a r.members := by
  cases r <;> rfl

/-- The entries an address gives back are those it occupied (R142, R152). -/
theorem State.entriesInUse_dropMember (a : Addr) (s : State) :
    (s.dropMember a).entriesInUse + s.entriesOf a = s.entriesInUse := by
  unfold State.entriesInUse State.entriesOf
  rw [← sum_map_plus]
  congr 1
  apply List.map_congr_left
  intro g _
  rw [State.group_dropMember, GroupRecord.members_drop, length_dropAddr]

theorem GroupRecord.lawful_drop {a : Addr} {r : GroupRecord} (h : r.lawful = true) : (r.drop a).lawful = true := by
  cases r with
  | unused => rfl
  | opened l p m =>
    simp only [GroupRecord.lawful, GroupRecord.drop, decide_eq_true_eq] at *
    have : (dropAddr a m).length ≤ m.length := List.length_filter_le _ _
    exact ⟨h.1, h.2.1, by omega, h.2.2.2.filter _⟩

theorem GroupRecord.cleared_facts (k : Bool) (r : GroupRecord) :
    (r.cleared k).members = [] ∧ (r.lawful = true → (r.cleared k).lawful = true) := by
  cases r with
  | unused => exact ⟨rfl, fun _ => rfl⟩
  | opened l p m =>
    cases k
    · exact ⟨rfl, fun _ => rfl⟩
    · refine ⟨rfl, fun h => ?_⟩
      simp only [GroupRecord.lawful, GroupRecord.cleared, if_true, decide_eq_true_eq] at *
      exact ⟨h.1, h.2.1, Nat.zero_le _, List.nodup_nil⟩

theorem State.group_clearTable (kr kg : Bool) (s : State) (g : GroupNo) :
    (s.clearTable kr kg).group g = (s.group g).cleared kg := by
  simp [State.clearTable, State.group]

/-- The law of the pool reads the groups and the free entries alone. -/
theorem State.PoolAccounts.congr {s t : State} (h : s.PoolAccounts) (hg : ∀ g, t.group g = s.group g)
    (hp : t.poolFree = s.poolFree) : t.PoolAccounts := by
  unfold State.PoolAccounts at *
  simpa only [hg, hp] using h

theorem State.entriesInUse_empty {s : State} (h : ∀ g, (s.group g).members = []) : s.entriesInUse = 0 :=
  sum_map_zero (fun g _ => by rw [h]; rfl)

/-- Every edit keeps the member entries in use and the free ones at 128 together, and every list within its limit without
duplicates (R142, R143). -/
theorem Edit.poolAccounts {tame : Bool} {short : Prop} {s t : State} (e : Edit tame short s t) (h : s.PoolAccounts) :
    t.PoolAccounts := by
  cases e with
  | same k => exact h.congr k.group k.poolFree
  | put a b _ _ _ | enter a b _ _ _ | free p a _ | hold former n a _ | cache a r _ =>
    exact h.congr (by simp) (by simp)
  | drop a =>
    obtain ⟨hsum, hl⟩ := h
    refine ⟨?_, fun g => by rw [State.group_dropMember]; exact GroupRecord.lawful_drop (hl g)⟩
    have := State.entriesInUse_dropMember a s
    change (s.dropMember a).poolFree + (s.dropMember a).entriesInUse = _
    change s.poolFree + s.entriesInUse = _ at hsum
    rw [State.poolFree_dropMember]
    omega
  | entries _ _ _ | entry _ _ _ _ | barred _ _ | policy _ _ _ | running | recalling _ _ _ _ | stop | tick _ =>
    exact h.congr (fun g => rfl) rfl
  | regroup g r n hn hr _ =>
    obtain ⟨hsum, hl⟩ := h
    have hgrp : ∀ k, ({ s.setGroup g r with poolFree := n } : State).group k = if k = g then r else s.group k :=
      fun k => State.group_setGroup g k r s
    refine ⟨?_, fun k => ?_⟩
    · have := sum_map_replace (f := fun k => (s.group k).members.length)
        (f' := fun k => (({ s.setGroup g r with poolFree := n } : State).group k).members.length) (a := g)
        nodup_allGroups (mem_allGroups g) (fun k hk => by rw [hgrp, if_neg hk])
      simp only [hgrp, if_true] at this ⊢
      omega
    · rw [hgrp]
      split
      · rename_i hk; subst hk; exact hr (hl k)
      · exact hl k
  | clear kr kg k _ =>
    refine State.PoolAccounts.congr (s := s.clearTable kr kg) ⟨?_, fun g => ?_⟩ k.group k.poolFree
    · change (s.clearTable kr kg).poolFree + (s.clearTable kr kg).entriesInUse = _
      rw [State.entriesInUse_empty (fun g => by rw [State.group_clearTable]; exact (GroupRecord.cleared_facts kg _).1)]
      simp [State.clearTable]
    · rw [State.group_clearTable]; exact (GroupRecord.cleared_facts kg _).2 (h.2 g)
  | reset k =>
    refine State.PoolAccounts.congr (s := State.reset) ⟨?_, fun g => by rw [group_reset]; rfl⟩ k.group k.poolFree
    change State.reset.poolFree + State.reset.entriesInUse = _
    rw [State.entriesInUse_empty (fun g => by rw [group_reset]; rfl)]
    rfl

/-! ### Members (R142, R152) -/

theorem State.mayBelong_cacheReply (a c : Addr) (r : Replay) (s : State) :
    ((s.cacheReply a r).binding c).mayBelong = (s.binding c).mayBelong := by
  by_cases hc : c = a
  · subst hc; rw [State.cacheReply_binding]; split <;> simp_all [Binding.mayBelong]
  · simp [hc]

theorem Binding.mayBelong_stopTimers (b : Binding) : b.stopTimers.mayBelong = b.mayBelong := by
  cases b with
  | free | reserved _ | bound _ _ _ _ | contested _ _ _ _ _ _ => rfl
  | offered _ o _ => cases o <;> rfl
  | held f _ => cases f <;> rfl

theorem Binding.mayBelong_tick (b : Binding) : b.tick.mayBelong = b.mayBelong := by
  cases b with
  | free | reserved _ | bound _ _ _ _ | contested _ _ _ _ _ _ => rfl
  | offered _ o _ => cases o <;> rfl
  | held f _ => cases f <;> rfl

/-- Members that stay stand where their bindings may belong still. -/
theorem State.MembersStand.congr {s t : State} (h : s.MembersStand)
    (hg : ∀ g, ∀ a ∈ (t.group g).members, a ∈ (s.group g).members)
    (hb : ∀ a, (s.binding a).mayBelong = true → (t.binding a).mayBelong = true) : t.MembersStand :=
  fun g a ha => hb a (h g a (hg g a ha))

/-- A record that is admitted may belong to the groups its address is in. -/
theorem State.Admits.membersStand {tame : Bool} {s t : State} {a : Addr} {b : Binding} (k : s.Admits tame a b)
    (hq : s.QueuesAgree) (hb : t.binding a = b) (ho : othersKept s t a) (hg : ∀ g, t.group g = s.group g)
    (h : s.MembersStand) : t.MembersStand := by
  intro g c hc
  rw [hg] at hc
  by_cases hca : c = a
  · subst hca
    rw [hb]
    exact (k.belongs hq h).resolve_right (fun hno => hno g hc)
  · rw [ho c hca]; exact h g c hc

theorem Binding.mayBelong_of_isBound {b : Binding} (h : b.isBound = true) : b.mayBelong = true := by
  cases b <;> simp_all [Binding.isBound, Binding.mayBelong]

/-- Every edit keeps every member in a binding that may belong to a group (R142, R152). -/
theorem Edit.membersStand {tame : Bool} {short : Prop} {s t : State} (e : Edit tame short s t) (hq : s.QueuesAgree)
    (h : s.MembersStand) : t.MembersStand := by
  cases e with
  | same k => exact h.congr (by simp [k.group]) (by simp [k.binding])
  | put a b k _ _ => exact k.membersStand hq (by simp) (fun c hc => by simp [hc]) (by simp) h
  | enter a b k _ _ => exact k.membersStand hq (by simp) (fun c hc => by simp [hc]) (by simp) h
  | hold former n a k => exact k.membersStand hq (by simp) (fun c hc => by simp [hc]) (by simp) h
  | free p a hno =>
    intro g c hc
    have hc' : c ∈ (s.group g).members := by simpa using hc
    have hca : c ≠ a := fun hca => hno g (hca ▸ hc')
    simpa [hca] using h g c hc'
  | cache a r _ => exact h.congr (by simp) (by simp [State.mayBelong_cacheReply])
  | drop a =>
    refine h.congr (fun g c hc => ?_) (by simp)
    rw [State.group_dropMember, GroupRecord.members_drop] at hc
    exact (mem_dropAddr.mp hc).1
  | entries _ _ _ | entry _ _ _ _ | barred _ _ | policy _ _ _ | running | recalling _ _ _ _ =>
    exact h.congr (fun g c hc => hc) (fun c hc => hc)
  | stop =>
    refine h.congr (fun g c hc => hc) (fun c hc => ?_)
    have : ({ s.stopTimers with phase := .stopped } : State).binding c = (s.binding c).stopTimers :=
      State.binding_stopTimers s c
    rwa [this, Binding.mayBelong_stopTimers]
  | tick _ => exact h.congr (fun g c hc => hc) (by simp [State.binding_tick, Binding.mayBelong_tick])
  | regroup g r n _ _ hm =>
    intro k c hc
    change c ∈ ((s.setGroup g r).group k).members at hc
    change (s.binding c).mayBelong = true
    rw [State.group_setGroup] at hc
    split at hc
    · rename_i hk
      rcases hm c hc with hold | hbound
      · exact h g c hold
      · exact Binding.mayBelong_of_isBound hbound
    · exact h k c hc
  | clear kr kg k _ =>
    intro g c hc
    rw [k.group, State.group_clearTable, (GroupRecord.cleared_facts kg _).1] at hc
    cases hc
  | reset k =>
    intro g c hc
    rw [k.group, group_reset] at hc
    cases hc

/-! ### Tags and cached replies (R2, R37) -/

/-- Every record and every admission entry fits (R2). -/
def State.RecordsFit (s : State) : Prop :=
  (∀ a, (s.binding a).fits = true) ∧ ∀ e ∈ s.admission, e.tag.length ≤ 8

theorem State.RecordsFit.congr {s t : State} (h : s.RecordsFit) (hb : ∀ a, (s.binding a).fits = true → (t.binding a).fits = true)
    (hw : ∀ e ∈ t.admission, ∃ d ∈ s.admission, e.tag = d.tag) : t.RecordsFit := by
  refine ⟨fun a => hb a (h.1 a), fun e he => ?_⟩
  obtain ⟨d, hd, htag⟩ := hw e he
  rw [htag]
  exact h.2 d hd

/-- A record that is admitted fits. -/
theorem State.Admits.recordsFit {tame : Bool} {s t : State} {a : Addr} {b : Binding} (k : s.Admits tame a b)
    (hb : t.binding a = b) (ho : othersKept s t a) (ha : t.admission = s.admission) (h : s.RecordsFit) : t.RecordsFit := by
  refine ⟨fun c => ?_, by rw [ha]; exact h.2⟩
  by_cases hc : c = a
  · subst hc; rw [hb]; exact k.fits h.1 h.2
  · rw [ho c hc]; exact h.1 c

theorem State.fits_cacheReply {a c : Addr} {r : Replay} {s : State} (hr : r.rest.length ≤ 39)
    (h : (s.binding c).fits = true) : ((s.cacheReply a r).binding c).fits = true := by
  by_cases hc : c = a
  · subst hc; rw [State.cacheReply_binding]; split <;> simp_all [Binding.fits]
  · simpa [hc] using h

theorem Binding.fits_stopTimers (b : Binding) : b.stopTimers.fits = b.fits := by
  cases b with
  | free | reserved _ | offered _ _ _ | held _ _ | contested _ _ _ _ _ _ => rfl
  | bound _ l _ _ => rfl

theorem Binding.fits_tick (b : Binding) : b.tick.fits = b.fits := by cases b <;> rfl

theorem Binding.reservation?_fits {b : Binding} {r : Reservation} (h : b.fits = true) (hr : b.reservation? = some r) :
    r.tag.length ≤ 8 := by
  cases b with
  | free | held _ _ => cases hr
  | reserved _ => cases hr; simpa [Binding.fits] using h
  | offered o g _ => cases g <;> cases hr; simpa [Binding.fits, Holder.reservation] using h
  | bound o l v _ | contested o l v _ _ _ =>
    cases v <;> cases hr
    simp only [Binding.fits, Bool.and_eq_true, decide_eq_true_eq] at h
    exact h.1

theorem Binding.fits_cleared {b : Binding} (k : Bool) (h : b.fits = true) : (b.cleared k).fits = true := by
  unfold Binding.cleared
  split
  · rename_i r hr
    have := Binding.reservation?_fits h hr
    cases k
    · rfl
    · simpa [Binding.fits] using this
  · rfl

/-- Every edit keeps every tag within 8 bytes and every cached reply within 40 (R2, R37). -/
theorem Edit.recordsFit {tame : Bool} {short : Prop} {s t : State} (e : Edit tame short s t) (hs : short)
    (h : s.RecordsFit) : t.RecordsFit := by
  cases e with
  | same k => exact h.congr (by simp [k.binding]) (by rw [k.admission]; exact fun e he => ⟨e, he, rfl⟩)
  | put a b k _ _ => exact k.recordsFit (by simp) (fun c hc => by simp [hc]) (by simp) h
  | enter a b k _ _ => exact k.recordsFit (by simp) (fun c hc => by simp [hc]) (by simp) h
  | hold former n a k => exact k.recordsFit (by simp) (fun c hc => by simp [hc]) (by simp) h
  | free p a _ =>
    refine h.congr (fun c hc => ?_) (fun e he => ⟨e, by simpa using he, rfl⟩)
    by_cases hca : c = a
    · subst hca; simp [Binding.fits]
    · simpa [hca] using hc
  | cache a r hr => exact h.congr (fun c hc => State.fits_cacheReply (hr hs) hc) (fun e he => ⟨e, by simpa using he, rfl⟩)
  | drop a => exact h.congr (by simp) (fun e he => ⟨e, by simpa using he, rfl⟩)
  | entries q _ hw => exact h.congr (fun c hc => hc) (fun e he => (hw e he).imp (fun d hd => ⟨hd.1, hd.2.2⟩))
  | entry o _ _ hl =>
    refine ⟨h.1, fun e he => ?_⟩
    rcases List.mem_append.mp he with he | he
    · exact h.2 e he
    · rw [List.mem_singleton] at he; subst he; exact hl
  | barred _ _ | policy _ _ _ | running | regroup _ _ _ _ _ _ => exact h.congr (fun c hc => hc) (fun e he => ⟨e, he, rfl⟩)
  | recalling _ _ _ _ => exact h.congr (fun c hc => hc) (fun e he => by cases he)
  | stop =>
    refine h.congr (fun c hc => ?_) (fun e he => ?_)
    · have : ({ s.stopTimers with phase := .stopped } : State).binding c = (s.binding c).stopTimers :=
        State.binding_stopTimers s c
      rwa [this, Binding.fits_stopTimers]
    · obtain ⟨d, hd, rfl⟩ := List.mem_map.mp he; exact ⟨d, hd, rfl⟩
  | tick _ =>
    refine h.congr (by simp [State.binding_tick, Binding.fits_tick]) (fun e he => ?_)
    obtain ⟨d, hd, rfl⟩ := List.mem_map.mp he
    exact ⟨d, hd, rfl⟩
  | clear kr kg k _ =>
    refine h.congr (fun c hc => ?_) (by rw [k.admission]; simp [State.clearTable])
    rw [k.binding, State.binding_clearTable]
    exact Binding.fits_cleared kr hc
  | reset k =>
    refine h.congr (fun c _ => by rw [k.binding, binding_reset]; rfl) (fun e he => ?_)
    rw [k.admission] at he
    cases he

end Sys2Proof.Machine
end

section
/-! PROOFS. The state entries of section 1.2 and the requests of chapters 3 to 7 as chains of edits. -/

namespace Sys2Proof.Machine

/-! ### State entries (section 1.2) -/

theorem Edits.goFree {tame : Bool} {short : Prop} (p : FreePlace) (a : Addr) (s : State) :
    Edits tame short s (s.goFree p a) := by
  have hno : ∀ g, a ∉ ((s.dropMember a).group g).members := by
    intro g hg
    rw [State.group_dropMember, GroupRecord.members_drop] at hg
    exact (mem_dropAddr.mp hg).2 rfl
  exact (Edits.one (.drop a)).tail (.free p a hno)

/-- The holder `k` stands in the record of `a`, which is not RESERVED, by identity and tag. -/
structure State.Holds (s : State) (a : Addr) (k : Holder) : Prop where
  parties : [k.identity].Sublist (s.binding a).parties
  state : (s.binding a).state ≠ .reserved
  tag : (s.binding a).fits = true → k.tag.length ≤ 8

theorem Binding.holder?_facts {b : Binding} {h : Holder} (hb : b.holder? = some h) :
    [h.identity].Sublist b.parties ∧ b.state ≠ .reserved ∧ (b.fits = true → h.tag.length ≤ 8) := by
  cases b with
  | free | reserved _ | held _ _ => cases hb
  | offered o g r => cases hb; simp [Binding.parties, Binding.state, Binding.fits]
  | bound o l v p => cases hb; simp +contextual [Binding.parties, Binding.state, Binding.fits]
  | contested o l v p c k => cases hb; simp +contextual [Binding.parties, Binding.state, Binding.fits]

/-- The holder of an OFFERED, BOUND or CONTESTED record stands in it, on whatever segment it is heard. -/
theorem State.Holds.of {s : State} {a : Addr} {h k : Holder} (hb : (s.binding a).holder? = some h)
    (hi : k.identity = h.identity) (ht : k.tag = h.tag) : s.Holds a k := by
  obtain ⟨hp, hs, hf⟩ := Binding.holder?_facts hb
  exact ⟨by rwa [hi], hs, by rwa [ht]⟩

theorem State.Holds.self {s : State} {a : Addr} {h : Holder} (hb : (s.binding a).holder? = some h) : s.Holds a h :=
  .of hb rfl rfl

theorem Policy.holdPeriod_le {p : Policy} (h : p.inRange = true) : p.holdPeriod ≤ 3600 := by
  simp only [Policy.inRange, decide_eq_true_eq] at h; omega

theorem Edits.enterHold {tame : Bool} {short : Prop} {s : State} {a : Addr} {h : Holder} (k : s.Holds a h) (n : Bool)
    (hz : s.policy.holdPeriod ≠ 0) : Edits tame short s (s.enterHold (some h) n a) := by
  refine .one (.hold (some h) n a ⟨fun _ => k.parties, fun _ hr => absurd hr k.state, by simp [Binding.state], ?_,
    fun _ _ => .inl rfl, ?_⟩)
  · intro hp _
    exact decide_eq_true (Countdown.fresh_within (Nat.one_le_iff_ne_zero.mpr hz) (Policy.holdPeriod_le hp) _)
  · intro hf _
    simpa [Binding.fits] using k.tag (hf a)

theorem Edits.goHeldWith {tame : Bool} {short : Prop} {s : State} {a : Addr} {h : Holder} (k : s.Holds a h) (n : Bool) :
    Edits tame short s (s.goHeldWith h n a) := by
  unfold State.goHeldWith
  split
  · exact .goFree _ a s
  · exact .enterHold k n ‹_›

theorem Edits.goHeldAnonymous {tame : Bool} {short : Prop} (a : Addr) (s : State) :
    Edits tame short s (s.goHeldAnonymous a) := by
  unfold State.goHeldAnonymous
  split
  · exact .goFree _ a s
  · rename_i hz
    refine (Edits.one (.drop a)).tail (.hold none false a ⟨fun _ => List.nil_sublist _, fun _ _ => .inr rfl,
      by simp [Binding.state], ?_, fun _ _ => .inr ?_, fun _ _ => rfl⟩)
    · intro hp _
      exact decide_eq_true (Countdown.fresh_within (Nat.one_le_iff_ne_zero.mpr hz) (Policy.holdPeriod_le hp) _)
    · intro g hg
      rw [State.group_dropMember, GroupRecord.members_drop] at hg
      exact (mem_dropAddr.mp hg).2 rfl

/-- An entry into RESERVED, in which the identity of the reservation need stand already when the edit is tame. -/
theorem Edits.goReserved {tame : Bool} {short : Prop} {s : State} {a : Addr} {r : Reservation}
    (hp : tame = true → [r.identity].Sublist (s.binding a).parties)
    (hf : (s.binding a).fits = true → r.tag.length ≤ 8) : Edits tame short s (s.goReserved r a) := by
  refine (Edits.one (.drop a)).tail (.enter a (.reserved r) ⟨by simpa [Binding.parties] using hp, fun _ _ => .inl rfl,
    by simp [Binding.state], fun _ _ => rfl, fun _ _ => .inr ?_, ?_⟩ (by simp [Binding.state]) (by simp [Binding.state]))
  · intro g hg
    rw [State.group_dropMember, GroupRecord.members_drop] at hg
    exact (mem_dropAddr.mp hg).2 rfl
  · intro hfit _
    simpa [Binding.fits] using hf (by simpa using hfit a)

theorem Edits.reserveFor {tame : Bool} {short : Prop} {s : State} {a : Addr} {h : Holder} (k : s.Holds a h) (i : LeaseKind) :
    Edits tame short s (s.goReserved (h.reservation i) a) :=
  .goReserved (fun _ => k.parties) k.tag

theorem Edits.giveUp {tame : Bool} {short : Prop} {s : State} {a : Addr} {h : Holder} (k : s.Holds a h) (l : Lease)
    (v n : Bool) : Edits tame short s (s.giveUp h l v n a) := by
  unfold State.giveUp
  split
  · exact .reserveFor k _
  · exact .goHeldWith k n

theorem Edits.expel {tame : Bool} {short : Prop} {s : State} {a : Addr} {h : Holder} (k : s.Holds a h) (l : Lease)
    (v : Bool) : Edits tame short s (s.expel h l v a) := by
  unfold State.expel
  split
  · exact .reserveFor k _
  · exact .goHeldAnonymous a s

theorem Edits.returnOffer {tame : Bool} {short : Prop} {s : State} {a : Addr} {h : Holder} (k : s.Holds a h) (o : Origin)
    (p : FreePlace) (n : Bool) : Edits tame short s (s.returnOffer h o p n a) := by
  cases o with
  | free => exact .goFree p a s
  | held => exact .goHeldWith k n
  | reserved i => exact .reserveFor k i

theorem Edits.revokeOffer {tame : Bool} {short : Prop} {s : State} {a : Addr} {h : Holder} (k : s.Holds a h) (o : Origin) :
    Edits tame short s (s.revokeOffer h o a) := by
  cases o with
  | free => exact .goFree .head a s
  | held => exact .goHeldAnonymous a s
  | reserved i => exact .reserveFor k i

theorem Edits.makeAnonymous {tame : Bool} {short : Prop} (a : Addr) (s : State) :
    Edits tame short s (s.makeAnonymous a) := by
  cases hb : s.binding a with
  | held f r =>
    cases f with
    | none => rw [State.makeAnonymous_same (by simp [hb])]
    | some h =>
      rw [State.makeAnonymous_of hb]
      have hb' : (s.dropMember a).binding a = .held (some h) r := by simpa using hb
      refine (Edits.one (.drop a)).tail (.put a (.held none r) ⟨fun _ => List.nil_sublist _, fun _ _ => .inr rfl,
        by simp [Binding.state], ?_, fun _ _ => .inr ?_, fun _ _ => rfl⟩ ?_ ?_)
      · intro _ hc
        rw [hb'] at hc
        exact hc
      · intro g hg
        rw [State.group_dropMember, GroupRecord.members_drop] at hg
        exact (mem_dropAddr.mp hg).2 rfl
      · simp [hb', Binding.state]
      · simp [hb', Binding.state]
  | free | reserved _ | offered _ _ _ | bound _ _ _ _ | contested _ _ _ _ _ _ =>
    rw [State.makeAnonymous_same (by simp [hb])]

theorem Edits.removeEntry {tame : Bool} {short : Prop} (x : Identity) (s : State) :
    Edits tame short s (s.removeEntry x) :=
  .one (.entries _ (List.Sublist.map _ (List.filter_sublist)) (fun e he => ⟨e, (List.mem_filter.mp he).1, rfl, rfl⟩))

/-- A grant of the default lease, or PERMANENT, is a lawful lease (R12, R184). -/
theorem State.freshLease_lawful {s : State} (hp : s.policy.inRange = true) (v : Bool) (i : LeaseKind) (stopped : Bool) :
    (s.freshLease v i).lawful stopped = true := by
  simp only [Policy.inRange, decide_eq_true_eq] at hp
  unfold State.freshLease
  split
  · rfl
  · simp only [Lease.grant, Lease.lawful, decide_eq_true_eq]
    exact ⟨by omega, by omega, Countdown.fresh_within (by omega) (by omega) _⟩

theorem State.offerLease_lawful {s : State} (hp : s.policy.inRange = true) (o : Origin) (stopped : Bool) :
    (s.offerLease o).lawful stopped = true := by
  cases o <;> exact State.freshLease_lawful hp _ _ _

/-- A record enters BOUND with a lawful lease (R12). -/
theorem Edits.enterBound {tame : Bool} {short : Prop} {s : State} {a : Addr} {h : Holder} {l : Lease} {v : Bool}
    (hp : tame = true → [h.identity].Sublist (s.binding a).parties ∧ (s.binding a).state ≠ .reserved)
    (hl : s.policy.inRange = true → l.lawful s.phase.isStopped = true)
    (hf : (∀ c, (s.binding c).fits = true) → h.tag.length ≤ 8) : Edits tame short s (s.enterBound h l v a) := by
  refine .one (.enter a (.bound h l v none) ⟨fun ht => (hp ht).1, fun ht hr => absurd hr (hp ht).2,
    by simp [Binding.state], fun hpol _ => hl hpol, fun _ _ => .inl rfl, ?_⟩ (by simp [Binding.state])
    (by simp [Binding.state]))
  intro hfit _
  simpa [Binding.fits] using hf hfit

theorem Edits.keepIncumbent {tame : Bool} {short : Prop} {s : State} {a : Addr} {h : Holder} (k : s.Holds a h) (l : Lease)
    (v : Bool) : Edits tame short s (s.keepIncumbent h l v a) :=
  .enterBound (fun _ => ⟨k.parties, k.state⟩) (fun hp => State.freshLease_lawful hp _ _ _) (fun hf => k.tag (hf a))

theorem Edits.keepChallenger {tame : Bool} {short : Prop} {s : State} {a : Addr} {h : Holder} {l : Lease} {v : Bool}
    {p : Option Replay} {c : Challenger} {k : Option Countdown} (hb : s.binding a = .contested h l v p c k) :
    Edits tame short s (s.keepChallenger c l v a) := by
  refine Edits.trans (.enterBound (fun _ => ?_) (fun hp => State.freshLease_lawful hp _ _ _) (fun _ => ?_)) (.one (.drop a))
  · simp [hb, Binding.parties, Binding.state, Challenger.asHolder]
  · simp [Challenger.asHolder]

/-- A record rewritten in place, in the same state, by the same parties. -/
theorem Edits.rewrite {tame : Bool} {short : Prop} {s : State} {a : Addr} {b : Binding}
    (hst : b.state = (s.binding a).state) (hp : b.parties = (s.binding a).parties)
    (hc : s.policy.inRange = true → (s.binding a).countsLawful s.phase.isStopped = true →
      b.countsLawful s.phase.isStopped = true)
    (hm : b.mayBelong = (s.binding a).mayBelong)
    (hf : (s.binding a).fits = true → b.fits = true) : Edits tame short s (s.setBinding a b) := by
  refine .one (.put a b ⟨fun _ => sublist_of_eq hp, fun _ hr => .inl (hst.trans hr), fun ho => .inl (hst ▸ ho), hc,
    fun _ hms => ?_, fun hfit _ => hf (hfit a)⟩ (by rw [hst]) (by rw [hst]))
  by_cases hb : (s.binding a).mayBelong = true
  · exact .inl (hm.trans hb)
  · exact .inr (fun g hg => hb (hms g a hg))

/-! ### ASK and APPROVE -/

/-- The own address of an identity: a RESERVED record for it, or a HELD one (R61). -/
theorem State.ownAddr_some {s : State} {x : Identity} {a : Addr} {o : Origin} (h : s.ownAddr x = some (a, o)) :
    (∃ r, s.binding a = .reserved r ∧ r.identity = x ∧ o = .reserved r.kind)
      ∨ ∃ k r, s.binding a = .held (some k) r ∧ k.identity = x ∧ o = .held := by
  unfold State.ownAddr at h
  split at h
  · rename_i b hb
    have hres := State.findBinding_some hb
    split at h
    · rename_i r hr
      rw [hr] at hres
      simp only [Option.some.injEq, Prod.mk.injEq] at h
      obtain ⟨rfl, rfl⟩ := h
      exact .inl ⟨r, hr, by simpa [isReservedFor] using hres, rfl⟩
    all_goals cases h
  · obtain ⟨b, hb, heq⟩ := Option.map_eq_some_iff.mp h
    simp only [Prod.mk.injEq] at heq
    obtain ⟨rfl, rfl⟩ := heq
    have hheld := State.findBinding_some hb
    cases hbb : s.binding b with
    | held f r =>
      cases f with
      | none => simp [hbb, isHeldBy] at hheld
      | some k => exact .inr ⟨k, r, rfl, by simpa [hbb, isHeldBy] using hheld, rfl⟩
    | free | reserved _ | offered _ _ _ | bound _ _ _ _ | contested _ _ _ _ _ _ => simp [hbb, isHeldBy] at hheld

/-- The address of a newcomer stands in a queue (R24). -/
theorem State.newcomerAddr_some {s : State} {a : Addr} (h : s.newcomerAddr = some a) : a ∈ s.freeQueue ∨ a ∈ s.holdQueue := by
  unfold State.newcomerAddr at h
  split at h
  · rename_i b q hq; cases h; simp [hq]
  · exact .inr (List.mem_of_head? h)

/-- An address in a queue is FREE or HELD (R19). -/
theorem State.QueuesAgree.state_of_mem {s : State} (h : s.QueuesAgree) {a : Addr} :
    (a ∈ s.freeQueue → (s.binding a).state = .free) ∧ (a ∈ s.holdQueue → (s.binding a).state = .held) := by
  obtain ⟨hf, hh⟩ := h a
  constructor
  · intro ha
    have := List.count_pos_iff.mpr ha
    split at hf
    · assumption
    · omega
  · intro ha
    have := List.count_pos_iff.mpr ha
    split at hh
    · assumption
    · omega

/-- An offer below the limit and outside RECALL, of a record that belongs to no group unless it was HELD (R10, R66). -/
theorem Edits.makeOffer {short : Prop} {s : State} {a : Addr} {h : Holder} {o : Origin} (hlim : s.atOfferLimit = false)
    (hp : s.phase.isRecall = false) (ht : (∀ e ∈ s.admission, e.tag.length ≤ 8) → h.tag.length ≤ 8)
    (hm : s.QueuesAgree → o = .held ∨ (s.binding a).mayBelong = false) : Edits false short s (s.makeOffer h o a) := by
  refine Edits.trans (.one (.enter a (.offered h o (Countdown.fresh s.policy.offerWindow))
    ⟨nofun, nofun, fun _ => .inr ⟨hlim, hp⟩, ?_, fun hq hms => ?_, ?_⟩ (by simp [Binding.state]) (by simp [Binding.state])))
    (.removeEntry h.identity _)
  · intro hpol _
    simp only [Policy.inRange, decide_eq_true_eq] at hpol
    exact decide_eq_true (Countdown.fresh_within hpol.2.2.1 hpol.2.2.2.1 _)
  · rcases hm hq with rfl | hno
    · exact .inl rfl
    · exact .inr (fun g hg => by rw [hms g a hg] at hno; cases hno)
  · intro _ hadm
    simpa [Binding.fits] using ht hadm

theorem State.atOfferLimit_congr {s t : State} (hp : t.policy = s.policy) (ho : t.offeredCount = s.offeredCount) :
    t.atOfferLimit = s.atOfferLimit := by simp [State.atOfferLimit, hp, ho]

theorem State.offeredCount_makeAnonymous (a : Addr) (s : State) : (s.makeAnonymous a).offeredCount = s.offeredCount := by
  unfold State.offeredCount State.countBindings
  congr 1
  funext c
  by_cases hc : c = a
  · subst hc; rw [State.makeAnonymous_binding]; split <;> simp_all [Binding.state]
  · simp [hc]

/-- The offer to a newcomer: the head of the hold queue is made anonymous first (R24). -/
theorem Edits.offerNewcomer {short : Prop} {s : State} {a : Addr} {h : Holder} (ha : s.newcomerAddr = some a)
    (hlim : s.atOfferLimit = false) (hp : s.phase.isRecall = false)
    (ht : (∀ e ∈ s.admission, e.tag.length ≤ 8) → h.tag.length ≤ 8) : Edits false short s (s.offerNewcomer h a) := by
  refine Edits.trans (.makeAnonymous a s) (.makeOffer ?_ (by simpa using hp) (by simpa using ht) (fun hq => .inr ?_))
  · rw [State.atOfferLimit_congr (by simp) (State.offeredCount_makeAnonymous a s), hlim]
  · have hbind := State.makeAnonymous_binding a s
    have hst : ((s.makeAnonymous a).binding a).state = .free ∨ ((s.makeAnonymous a).binding a).state = .held := by
      rcases State.newcomerAddr_some ha with hmem | hmem
      · exact .inl (hq.state_of_mem.1 (by simpa using hmem))
      · exact .inr (hq.state_of_mem.2 (by simpa using hmem))
    rw [hbind] at hst ⊢
    cases hb : s.binding a with
    | free => rfl
    | held f r => cases f <;> rfl
    | reserved _ | offered _ _ _ | bound _ _ _ _ | contested _ _ _ _ _ _ => simp [hb, Binding.state] at hst

/-- An offer of the own address (R61). -/
theorem Edits.offerOwn {short : Prop} {s : State} {a : Addr} {h : Holder} {o : Origin} {x : Identity}
    (ha : s.ownAddr x = some (a, o)) (hlim : s.atOfferLimit = false) (hp : s.phase.isRecall = false)
    (ht : (∀ e ∈ s.admission, e.tag.length ≤ 8) → h.tag.length ≤ 8) : Edits false short s (s.makeOffer h o a) := by
  refine .makeOffer hlim hp ht (fun _ => ?_)
  rcases State.ownAddr_some ha with ⟨r, hb, _, _⟩ | ⟨_, _, _, _, ho⟩
  · exact .inr (by rw [hb]; rfl)
  · exact .inl ho

theorem Edits.superviseAsk {short : Prop} {s : State} {h : Holder} (hp : s.phase.isRecall = false)
    (ht : h.tag.length ≤ 8) : Edits false short s (superviseAsk h s).state := by
  unfold Machine.superviseAsk
  split
  · refine .one (.entries _ ?_ ?_)
    · rw [List.map_map]
      have : (fun e : AdmissionEntry => e.identity) ∘ (fun e => if e.identity = h.identity then { e with segment := h.segment } else e)
          = fun e => e.identity := by funext e; simp only [Function.comp]; split <;> rfl
      exact sublist_of_eq (by rw [this])
    · intro e he
      obtain ⟨d, hd, rfl⟩ := List.mem_map.mp he
      exact ⟨d, hd, by split <;> rfl, by split <;> rfl⟩
  · split
    · refine (Edits.one (.entry h rfl hp ht)).then_same ?_
      constructor <;> simp [waitAnswer]
    · exact .refl

theorem Edits.openAsk {short : Prop} {s : State} {h : Holder} (hp : s.phase.isRecall = false) (ht : h.tag.length ≤ 8) :
    Edits false short s (openAsk h s).state := by
  unfold Machine.openAsk
  split
  · exact .refl
  · rename_i hlim
    split
    · rename_i a ha
      exact .offerNewcomer ha (by simpa using hlim) hp (fun _ => ht)
    · exact .one (.same (by constructor <;> simp))

theorem Edits.continueAsk {short : Prop} {s : State} {h : Holder} (hp : s.phase.isRecall = false) (ht : h.tag.length ≤ 8) :
    Edits false short s (continueAsk h s).state := by
  unfold Machine.continueAsk
  split
  · rename_i a o ha
    split
    · exact .refl
    · rename_i hlim
      exact .offerOwn ha (by simpa using hlim) hp (fun _ => ht)
  · split
    · exact .refl
    · exact .superviseAsk hp ht
    · exact .openAsk hp ht

/-- The challenger withdraws: the incumbent's record resumes (R58). -/
theorem Edits.withdrawChallenger {tame : Bool} {short : Prop} (a : Addr) (s : State) :
    Edits tame short s (s.withdrawChallenger a) := by
  unfold State.withdrawChallenger
  split
  · rename_i h l v r c k hb
    refine .one (.put a (.bound h l v r) ⟨fun _ => ?_, fun _ hr => ?_, by simp [Binding.state], ?_, fun _ _ => .inl rfl, ?_⟩
      ?_ ?_)
    · simp [hb, Binding.parties]
    · simp [hb, Binding.state] at hr
    · intro _ hc
      rw [hb] at hc
      refine Lease.lawful.weaken (l := l) ?_
      cases k <;> simp_all [Binding.countsLawful]
    · intro hf _
      simpa [hb, Binding.fits] using hf a
    · simp [hb, Binding.state]
    · simp [hb, Binding.state]
  all_goals exact .refl

theorem Edits.withdrawIncumbent {tame : Bool} {short : Prop} (a : Addr) (s : State) :
    Edits tame short s (s.withdrawIncumbent a) := by
  unfold State.withdrawIncumbent
  split
  · rename_i hb; exact .keepChallenger hb
  all_goals exact .refl

theorem State.withdraw_phase (a : Addr) (s : State) :
    (s.withdrawChallenger a).phase = s.phase ∧ (s.withdrawIncumbent a).phase = s.phase := by
  constructor
  · unfold State.withdrawChallenger; split <;> simp
  · unfold State.withdrawIncumbent; split <;> simp

theorem Edits.alreadyAnswer {tame : Bool} {short : Prop} {s : State} {x : Identity} {a : Addr} {seg : Segment} {r : Answer}
    (h : alreadyAnswer x a seg s = some r) : Edits tame short s r.state := by
  unfold Machine.alreadyAnswer at h
  split at h
  · rename_i o l v p hb
    cases h
    apply Edits.rewrite <;>
      simp +contextual [hb, Binding.state, Binding.parties, Binding.countsLawful, Binding.mayBelong, Binding.fits, Holder.on]
  all_goals cases h

theorem Edits.repeatAnswer {tame : Bool} {short : Prop} {s : State} {x : Identity} {a : Addr} {seg : Segment} {r : Answer}
    (h : repeatAnswer x a seg s = some r) : Edits tame short s r.state := by
  unfold Machine.repeatAnswer at h
  split at h
  · rename_i o g k hb
    cases h
    apply Edits.rewrite
    case hm => cases g <;> simp [hb, Binding.mayBelong]
    all_goals simp +contextual [hb, Binding.state, Binding.parties, Binding.countsLawful, Binding.fits, Holder.on]
  all_goals cases h

theorem Edits.decideAsk {short : Prop} {s : State} {h : Holder} (hp : s.phase.isRecall = false) (ht : h.tag.length ≤ 8) :
    Edits false short s (decideAsk h s).state := by
  unfold Machine.decideAsk
  dsimp only
  split
  · rename_i r hr
    obtain ⟨a, _, ha⟩ := Option.bind_eq_some_iff.mp hr
    exact .alreadyAnswer ha
  · split
    · rename_i a _
      exact Edits.trans (.withdrawChallenger a s) (.continueAsk (by rw [(State.withdraw_phase a s).1, hp]) ht)
    · split
      · rename_i a _
        exact Edits.trans (.withdrawIncumbent a s) (.continueAsk (by rw [(State.withdraw_phase a s).2, hp]) ht)
      · split
        · rename_i r hr
          obtain ⟨a, _, ha⟩ := Option.bind_eq_some_iff.mp hr
          exact .repeatAnswer ha
        · exact .continueAsk hp ht

theorem Edits.runAsk {short : Prop} {s : State} {seg : Segment} {body : Identity × Byte × Tag} (ht : body.2.2.length ≤ 8) :
    Edits false short s (runAsk seg body s).state := by
  unfold Machine.runAsk
  dsimp only
  split
  · exact .refl
  all_goals
    rename_i hp
    split
    · exact .refl
    · exact .decideAsk (by rw [hp]; rfl) ht

/-! ### TAKE and CLAIM -/

theorem Edits.runTake {tame : Bool} {short : Prop} (seg : Segment) (body : Identity × Addr) (s : State) :
    Edits tame short s (runTake seg body s).state := by
  unfold Machine.runTake
  dsimp only
  split
  · exact .refl
  · split
    · rename_i h o r hb
      split
      · refine .enterBound (fun _ => ?_) (fun hp => State.offerLease_lawful hp _ _) (fun hf => ?_)
        · simp [hb, Binding.parties, Binding.state, Holder.on]
        · have := hf body.2
          simpa [hb, Binding.fits, Holder.on] using this
      · exact .refl
    · rename_i h l v r hb
      split
      · apply Edits.rewrite <;>
          simp +contextual [hb, Binding.state, Binding.parties, Binding.countsLawful, Binding.mayBelong, Binding.fits, Holder.on]
      · exact .refl
    all_goals exact .refl

theorem Edits.settleClaimant {tame : Bool} {short : Prop} (x : Identity) (a : Addr) (s : State) :
    Edits tame short s (s.settleClaimant x a) := by
  refine Edits.trans ?_ (.removeEntry x _)
  unfold State.forgetElsewhere
  split
  · exact .makeAnonymous _ s
  · exact .refl

theorem Edits.claimBinds {short : Prop} {s : State} {h : Holder} {l : Lease} {v : Bool} {status : Status} {a : Addr}
    (hl : s.policy.inRange = true → l.lawful s.phase.isStopped = true)
    (hf : (∀ c, (s.binding c).fits = true) → h.tag.length ≤ 8) :
    Edits false short s (claimBinds h l v status a s).state :=
  Edits.trans (.enterBound nofun hl hf) (.settleClaimant _ a _)

theorem Edits.claimRefreshes {short : Prop} {s : State} {o h : Holder} {l : Lease} {v : Bool} {p : Option Replay} {a : Addr}
    (hb : s.binding a = .bound o l v p) (ht : h.tag = o.tag) : Edits false short s (claimRefreshes h l v a s).state := by
  have hfit : (s.binding a).fits = true → h.tag.length ≤ 8 := by
    intro hf
    rw [hb] at hf
    simp only [Binding.fits, Bool.and_eq_true, decide_eq_true_eq] at hf
    rw [ht]
    exact hf.1
  have hput : ∀ k : Lease, (s.policy.inRange = true → k.lawful s.phase.isStopped = true) →
      Edits false short s (s.setBinding a (.bound h k v none)) := by
    intro k hk
    refine .one (.put a _ ⟨nofun, nofun, by simp [Binding.state], fun hp _ => hk hp, fun _ _ => .inl rfl, ?_⟩
      (by simp [hb, Binding.state]) (by simp [hb, Binding.state]))
    intro hf _
    simpa [Binding.fits] using hfit (hf a)
  cases l with
  | timed g r =>
    refine Edits.trans (hput _ (fun hp => ?_)) (.settleClaimant _ a _)
    exact State.freshLease_lawful (s := s) hp false .timed _
  | permanent => exact Edits.trans (hput _ (fun _ => rfl)) (.settleClaimant _ a _)

theorem Edits.claimContests {short : Prop} {s : State} {h : Holder} {l : Lease} {v : Bool} {p : Option Replay}
    {c : Challenger} {a : Addr} (hb : s.binding a = .bound h l v p) :
    Edits false short s (claimContests h l v p c a s).state := by
  have hfactor : ∀ t : State, t.SameDirectory (t.setFactor .contest) := fun t => by constructor <;> simp
  refine Edits.then_same (Edits.trans (.one (.put a (.contested h l.frozen v p c s.contestCount)
    ⟨nofun, nofun, by simp [Binding.state], ?_, fun _ _ => .inl rfl, ?_⟩ (by simp [hb, Binding.state])
    (by simp [hb, Binding.state]))) (.settleClaimant c.identity a _)) (hfactor _)
  · intro hpol hc
    rw [hb] at hc
    have hl : l.frozen.lawful true = true := Lease.lawful.frozen (by simpa [Binding.countsLawful] using hc) _
    unfold State.contestCount
    split
    · exact hl
    · simp only [Policy.inRange, decide_eq_true_eq] at hpol
      simp only [Binding.countsLawful, hl, Bool.true_and, decide_eq_true_eq]
      exact Countdown.fresh_within (by omega) (by omega) _
  · intro hf _
    simpa [hb, Binding.fits] using hf a

theorem Edits.claimAt {short : Prop} (a : Addr) (x : Identity) (c : Byte) (seg : Segment) (s : State) :
    Edits false short s (claimAt a x c seg s).state := by
  unfold Machine.claimAt
  split
  · split
    · exact .claimBinds (fun hp => State.freshLease_lawful hp _ _ _) (by simp)
    · exact .refl
  · rename_i r hb
    split
    · exact .claimBinds (fun hp => State.freshLease_lawful hp _ _ _) (fun hf => by simpa [hb, Binding.fits] using hf a)
    · exact .refl
  · rename_i h o k hb
    split
    · exact .claimBinds (fun hp => State.offerLease_lawful hp _ _) (fun hf => by simpa [hb, Binding.fits] using hf a)
    · exact .refl
  · rename_i h l v r hb
    split
    · exact .claimRefreshes hb rfl
    · exact .claimContests hb
  · rename_i h k hb
    split
    · exact .claimBinds (fun hp => State.freshLease_lawful hp _ _ _) (fun hf => by simpa [hb, Binding.fits] using hf a)
    · exact .refl
  · exact .refl
  · split <;> exact .refl

theorem Edits.runClaim {short : Prop} (seg : Segment) (a : Addr) (body : Identity × Byte) (s : State) :
    Edits false short s (runClaim seg a body s).state := by
  unfold Machine.runClaim
  dsimp only
  split
  · exact .refl
  · split
    · exact .refl
    · exact .claimAt a _ _ seg s

/-! ### Leases and groups -/

theorem renewLength_range {p : Policy} (h : p.inRange = true) (n : Nat) :
    10 ≤ renewLength p n ∧ renewLength p n ≤ 65535 := by
  simp only [Policy.inRange, decide_eq_true_eq] at h
  unfold renewLength
  split
  · omega
  · split
    · omega
    · split <;> omega

theorem Edits.runRenew {tame : Bool} {short : Prop} (seg : Segment) (a : Addr) (n : Nat) (s : State) :
    Edits tame short s (runRenew seg a n s).state := by
  unfold Machine.runRenew
  split
  · rename_i h g k v r hb
    apply Edits.rewrite
    case hc =>
      intro hp _
      obtain ⟨hlo, hhi⟩ := renewLength_range hp n
      simp only [Binding.countsLawful, Lease.grant, Lease.lawful, decide_eq_true_eq]
      exact ⟨hlo, hhi, Countdown.fresh_within (by omega) (Nat.le_refl _) _⟩
    all_goals simp +contextual [hb, Binding.state, Binding.parties, Binding.mayBelong, Binding.fits, Holder.on]
  · rename_i h v r hb
    apply Edits.rewrite <;>
      simp +contextual [hb, Binding.state, Binding.parties, Binding.countsLawful, Binding.mayBelong, Binding.fits, Holder.on]
  all_goals exact .refl

theorem Edits.runRetag {tame : Bool} {short : Prop} {seg : Segment} {a : Addr} {tag : Tag} {s : State}
    (ht : tag.length ≤ 8) : Edits tame short s (runRetag seg a tag s).state := by
  unfold Machine.runRetag
  split
  · rename_i h l v r hb
    apply Edits.rewrite <;>
      simp +contextual [hb, ht, Binding.state, Binding.parties, Binding.countsLawful, Binding.mayBelong, Binding.fits, Holder.on]
  all_goals exact .refl

theorem Edits.runRelease {tame : Bool} {short : Prop} (seg : Segment) (a : Addr) (u : Unit) (s : State) :
    Edits tame short s (runRelease seg a u s).state := by
  unfold Machine.runRelease
  split
  · rename_i h l v r hb
    exact .giveUp (.of (h := h) (k := h.on seg) (by rw [hb]; rfl) rfl rfl) l v false
  all_goals exact .refl

theorem Edits.appendMember {tame : Bool} {short : Prop} {s : State} {g : GroupNo} {limit : Nat} {p : JoinPolicy}
    {m : List Addr} {a : Addr} (hg : s.group g = .opened limit p m) (ha : a ∉ m) (hl : m.length < limit)
    (hn : s.poolFree ≠ 0) (hb : (s.binding a).isBound = true) : Edits tame short s (s.appendMember g limit p m a) := by
  refine .one (.regroup g _ _ ?_ ?_ ?_)
  · simp only [hg, GroupRecord.members, List.length_append, List.length_singleton]; omega
  · intro hlaw
    rw [hg] at hlaw
    simp only [GroupRecord.lawful, decide_eq_true_eq, List.length_append, List.length_singleton] at *
    refine ⟨hlaw.1, hlaw.2.1, by omega, ?_⟩
    exact List.nodup_append.mpr ⟨hlaw.2.2.2, by simp, fun x hx y hy hxy => ha (by rw [List.mem_singleton.mp hy] at hxy; exact hxy ▸ hx)⟩
  · intro c hc
    rcases List.mem_append.mp hc with hc | hc
    · exact .inl (by rw [hg]; exact hc)
    · rw [List.mem_singleton] at hc; subst hc; exact .inr hb

theorem Edits.removeMember {tame : Bool} {short : Prop} {s : State} {g : GroupNo} {limit : Nat} {p : JoinPolicy}
    {m : List Addr} {a : Addr} (hg : s.group g = .opened limit p m) :
    Edits tame short s (s.removeMember g limit p m a) := by
  refine .one (.regroup g _ _ ?_ ?_ ?_)
  · have := length_dropAddr a m
    simp only [hg, GroupRecord.members]; omega
  · intro hlaw
    have := GroupRecord.lawful_drop (a := a) hlaw
    rwa [hg] at this
  · intro c hc
    exact .inl (by rw [hg]; exact (mem_dropAddr.mp hc).1)

theorem Edits.joinGroup {tame : Bool} {short : Prop} {s : State} {a : Addr} (g : GroupNo)
    (hb : (s.binding a).isBound = true) : Edits tame short s (joinGroup a g s).state := by
  unfold Machine.joinGroup
  split
  · exact .refl
  · exact .refl
  · rename_i limit m hg
    split
    · exact .refl
    · rename_i ha
      split
      · exact .refl
      · split
        · exact .refl
        · exact .appendMember hg (by simpa using ha) (by omega) ‹_› hb

theorem Edits.leaveGroup {tame : Bool} {short : Prop} (a : Addr) (g : GroupNo) (s : State) :
    Edits tame short s (leaveGroup a g s).state := by
  unfold Machine.leaveGroup
  split
  · exact .refl
  · exact .refl
  · rename_i limit m hg
    split
    · exact .removeMember hg
    · exact .refl

theorem Edits.groupRequest {tame : Bool} {short : Prop} {act : Addr → GroupNo → State → Answer} (seg : Segment) (a : Addr)
    (g : GroupNo) (s : State)
    (hact : ∀ t : State, (t.binding a).isBound = true → Edits tame short t (act a g t).state) :
    Edits tame short s (groupRequest act seg a g s).state := by
  unfold Machine.groupRequest
  split
  · rename_i h l v r hb
    refine Edits.trans ?_ (hact _ (by simp [Binding.isBound]))
    apply Edits.rewrite <;>
      simp +contextual [hb, Binding.state, Binding.parties, Binding.countsLawful, Binding.mayBelong, Binding.fits, Holder.on]
  all_goals exact .refl

end Sys2Proof.Machine
end

section
/-! PROOFS. The host commands and the timers as chains of edits. -/

namespace Sys2Proof.Machine

/-! ### What leaves the directory as it was -/

theorem State.SameDirectory.commit (before : State) (granted : List Addr) (s : State) :
    s.SameDirectory (commit before granted s) := by constructor <;> simp

theorem State.SameDirectory.handReply (seg : Segment) (f : Frame) (s : State) : s.SameDirectory (s.handReply seg f) := by
  constructor <;> simp

theorem State.SameDirectory.sendVacate (a : Addr) (x : Identity) (seg : Segment) (r : VacateReason) (s : State) :
    s.SameDirectory (s.sendVacate a x seg r) := by constructor <;> simp

theorem State.SameDirectory.broadcast (f : Frame) (s : State) : s.SameDirectory (s.broadcast f) := by constructor <;> simp

theorem State.SameDirectory.setLine (seg : Segment) (c : Controller) (s : State) : s.SameDirectory (s.setLine seg c) := by
  constructor <;> simp

theorem State.SameDirectory.setListing (seg : Segment) (l : Option Listing) (s : State) :
    s.SameDirectory (s.setListing seg l) := by constructor <;> simp

theorem State.SameDirectory.setPort (p : Port) (s : State) : s.SameDirectory (s.setPort p) := by constructor <;> simp

theorem State.SameDirectory.setFactor (f : Factor) (s : State) : s.SameDirectory (s.setFactor f) := by
  constructor <;> simp

theorem State.SameDirectory.endListing (seg : Segment) (s : State) : s.SameDirectory (s.endListing seg) := by
  constructor <;> simp

theorem State.SameDirectory.sendListing (seg : Segment) (s : State) : s.SameDirectory (s.sendListing seg) := by
  constructor <;> simp

theorem State.SameDirectory.reportSendEnd (seg : Segment) (f : QueuedFrame) (s : State) :
    s.SameDirectory (s.reportSendEnd seg f) := by
  unfold State.reportSendEnd
  split
  · constructor <;> simp
  · exact .rfl

/-! ### Commands that change one binding -/

/-- A host command or a request that fails, or only reads. -/
theorem Edits.failed {tame : Bool} {short : Prop} (status : HostStatus) (s : State) :
    Edits tame short s (failed status s).state := .refl

theorem Edits.unreserveAddress {tame : Bool} {short : Prop} (a : Addr) (s : State) :
    Edits tame short s (unreserveAddress a s).state := by
  unfold Machine.unreserveAddress
  split
  · exact .goFree .tail a s
  · rename_i h l v p hb
    apply Edits.rewrite <;>
      simp +contextual [hb, Binding.state, Binding.parties, Binding.countsLawful, Binding.mayBelong, Binding.fits]
  · rename_i h l v p c r hb
    apply Edits.rewrite
    case hc => rw [hb]; cases r <;> exact fun _ hc => hc
    all_goals simp +contextual [hb, Binding.state, Binding.parties, Binding.mayBelong, Binding.fits]
  · rename_i h k r hb
    apply Edits.rewrite <;>
      simp +contextual [hb, Binding.state, Binding.parties, Binding.countsLawful, Binding.mayBelong, Binding.fits]
  all_goals exact .failed _ _

theorem Edits.evictAddress {tame : Bool} {short : Prop} (a : Addr) (s : State) :
    Edits tame short s (evictAddress a s).state := by
  unfold Machine.evictAddress
  split
  · rename_i h l v p hb
    exact (Edits.expel (.self (by rw [hb]; rfl)) l v).then_same (.sendVacate _ _ _ _ _)
  · rename_i h o r hb
    exact .revokeOffer (.self (by rw [hb]; rfl)) o
  · rename_i h l v p c r hb
    exact ((Edits.expel (.self (by rw [hb]; rfl)) l v).then_same (.sendVacate _ _ _ _ _)).then_same (.sendVacate _ _ _ _ _)
  · exact .makeAnonymous a s
  all_goals exact .failed _ _

theorem Edits.resolveContest {tame : Bool} {short : Prop} (p : Addr × Keep) (s : State) :
    Edits tame short s (resolveContest p s).state := by
  unfold Machine.resolveContest
  dsimp only
  split
  · rename_i h l v q c r hb
    split
    · exact (Edits.keepIncumbent (.self (by rw [hb]; rfl)) l v).then_same (.sendVacate _ _ _ _ _)
    · exact (Edits.keepChallenger hb).then_same (.sendVacate _ _ _ _ _)
    · exact ((Edits.expel (.self (by rw [hb]; rfl)) l v).then_same (.sendVacate _ _ _ _ _)).then_same
        (.sendVacate _ _ _ _ _)
  all_goals exact .failed _ _

/-- A MODIFY whose lease length is in range where it is used, and whose tag fits (R93). -/
theorem Edits.modifyAddress {tame : Bool} {short : Prop} {p : Addr × Byte × LeaseChoice × Nat × Tag} {s : State}
    (hn : p.2.2.1 = .timed → 10 ≤ p.2.2.2.1 ∧ p.2.2.2.1 ≤ 65535) (ht : p.2.2.2.2.length ≤ 8) :
    Edits tame short s (modifyAddress p s).state := by
  obtain ⟨a, c, choice, n, tag⟩ := p
  unfold Machine.modifyAddress
  dsimp only at *
  split
  · rename_i h l v r hb
    apply Edits.rewrite
    case hc =>
      intro _ hc
      rw [hb] at hc
      change (choice.onLease n l).lawful _ = true
      cases choice with
      | keep => exact hc
      | permanent => rfl
      | timed =>
        obtain ⟨hlo, hhi⟩ := hn rfl
        simp only [LeaseChoice.onLease, Lease.grant, Lease.lawful, decide_eq_true_eq]
        exact ⟨hlo, hhi, Countdown.fresh_within (by omega) (Nat.le_refl _) _⟩
    all_goals simp +contextual [hb, ht, Binding.state, Binding.parties, Binding.mayBelong, Binding.fits]
  · rename_i r hb
    apply Edits.rewrite <;>
      simp +contextual [hb, ht, Binding.state, Binding.parties, Binding.countsLawful, Binding.mayBelong, Binding.fits]
  all_goals exact .failed _ _

theorem Edits.reserveAddress {short : Prop} {p : Addr × Reservation} {s : State} (ht : p.2.tag.length ≤ 8) :
    Edits false short s (reserveAddress p s).state := by
  unfold Machine.reserveAddress
  dsimp only
  split
  · exact .failed _ _
  · refine Edits.trans ?_ (.goReserved nofun (fun _ => ht))
    unfold State.anonymizeOther
    split
    · exact .makeAnonymous _ s
    · exact .refl

/-! ### The admission unit -/

theorem Edits.addBarred {short : Prop} (x : Identity) (s : State) : Edits false short s (s.addBarred x) := by
  unfold State.addBarred
  split
  · exact .refl
  · exact .one (.barred _ nofun)

theorem Edits.deny {short : Prop} (p : Identity × Bool) (s : State) : Edits false short s (deny p s).state := by
  unfold Machine.deny
  dsimp only
  split
  · exact .failed _ _
  · split
    · split
      · exact .failed _ _
      · exact Edits.trans (.addBarred _ s) (.removeEntry _ _)
    · exact .removeEntry _ s

theorem Edits.unbar {tame : Bool} {short : Prop} (x : Identity) (s : State) : Edits tame short s (unbar x s).state := by
  unfold Machine.unbar
  split
  · exact .one (.barred _ (fun _ => List.filter_sublist))
  · exact .failed _ _

theorem Edits.barBinding {tame : Bool} {short : Prop} (x : Identity) (a : Addr) (s : State) :
    Edits tame short s (s.barBinding x a) := by
  unfold State.barBinding
  split
  · rename_i h o r hb
    exact .revokeOffer (.self (by rw [hb]; rfl)) o
  · rename_i h l v p hb
    exact (Edits.expel (.self (by rw [hb]; rfl)) l v).then_same (.sendVacate _ _ _ _ _)
  · rename_i h l v p c r hb
    split
    · exact (Edits.keepChallenger hb).then_same (.sendVacate _ _ _ _ _)
    · exact (Edits.keepIncumbent (.self (by rw [hb]; rfl)) l v).then_same (.sendVacate _ _ _ _ _)
  · exact .makeAnonymous a s
  all_goals exact .refl

theorem Edits.barIdentity {short : Prop} (x : Identity) (s : State) : Edits false short s (barIdentity x s).state := by
  have hbar : Edits false short s ((s.addBarred x).removeEntry x) := Edits.trans (.addBarred x s) (.removeEntry x _)
  unfold Machine.barIdentity
  dsimp only
  split
  · exact .refl
  · split
    · exact .failed _ _
    · split
      · exact Edits.trans hbar (.barBinding x _ _)
      · exact hbar

theorem State.entryOf_some {s : State} {x : Identity} {e : AdmissionEntry} (h : s.entryOf x = some e) :
    e ∈ s.admission ∧ e.identity = x := by
  unfold State.entryOf at h
  exact ⟨List.mem_of_find?_eq_some h, by simpa using List.find?_some h⟩

theorem Edits.approve {short : Prop} (x : Identity) (s : State) : Edits false short s (approve x s).state := by
  unfold Machine.approve
  split
  · exact .failed _ _
  · rename_i hrun
    have hp : s.phase.isRecall = false := by
      cases hph : s.phase <;> simp [hph, Phase.isRunning, Phase.isRecall] at hrun ⊢
    split
    · exact .failed _ _
    · rename_i e he
      have ht : (∀ e ∈ s.admission, e.tag.length ≤ 8) → e.tag.length ≤ 8 := fun h => h e (State.entryOf_some he).1
      split
      · exact .failed _ _
      · rename_i hlim
        have hlim : s.atOfferLimit = false := by simpa using hlim
        unfold offerFromEntry
        dsimp only
        split
        · rename_i a o ha
          exact .offerOwn ha hlim hp ht
        · split
          · rename_i a ha
            exact .offerNewcomer ha hlim hp ht
          · exact .failed _ _

/-! ### Policy and phase -/

theorem policyParams?_inRange {ps : List Byte} {p : Policy} (h : policyParams? ps = some p) : p.inRange = true := by
  unfold policyParams? at h
  split at h
  · split at h
    · dsimp only at h
      split at h
      · cases h; assumption
      · cases h
    · cases h
  · cases h

theorem Edits.setPolicy {tame : Bool} {short : Prop} (ps : List Byte) (s : State) :
    Edits tame short s (setPolicy ps s).state := by
  unfold Machine.setPolicy
  split
  · exact .refl
  · unfold withParams
    split
    · rename_i p hp
      unfold replacePolicy
      split
      · exact .failed _ _
      · exact .one (.policy p (policyParams?_inRange hp) (by omega))
    · exact .failed _ _

theorem Edits.withdrawOffer {tame : Bool} {short : Prop} (which : Origin → Bool) (a : Addr) (s : State) :
    Edits tame short s (s.withdrawOffer which a) := by
  unfold State.withdrawOffer
  split
  · rename_i h o r hb
    split
    · exact .returnOffer (.self (by rw [hb]; rfl)) o .head false
    · exact .refl
  all_goals exact .refl

/-- A chain of edits for each address of a list. -/
theorem Edits.foldl {tame : Bool} {short : Prop} {f : State → Addr → State} (hf : ∀ s a, Edits tame short s (f s a)) :
    ∀ (l : List Addr) (s : State), Edits tame short s (l.foldl f s)
  | [], _ => .refl
  | a :: l, s => Edits.trans (hf s a) (Edits.foldl hf l (f s a))

theorem State.returnOffer_state (h : Holder) (o : Origin) (p : FreePlace) (n : Bool) (a : Addr) (s : State) :
    ((s.returnOffer h o p n a).binding a).state ≠ .offered := by
  cases o with
  | free => simp [State.returnOffer, Binding.state]
  | held => rw [State.returnOffer, State.goHeldWith_binding]; split <;> simp [Binding.state]
  | reserved k => simp [State.returnOffer, Binding.state]

theorem State.withdrawOffer_others (which : Origin → Bool) {a c : Addr} (hc : c ≠ a) (s : State) :
    (s.withdrawOffer which a).binding c = s.binding c := by
  unfold State.withdrawOffer
  split
  · split
    · simp [hc]
    · rfl
  all_goals rfl

/-- What is OFFERED after a withdrawal stood so before, and its origin is not one withdrawn. -/
theorem State.withdrawOffer_offered {which : Origin → Bool} {a : Addr} {s : State} {h : Holder} {o : Origin} {r : Countdown}
    (hb : (s.withdrawOffer which a).binding a = .offered h o r) : s.binding a = .offered h o r ∧ which o = false := by
  unfold State.withdrawOffer at hb
  split at hb
  · rename_i k g q hk
    split at hb
    · have := State.returnOffer_state k g .head false a s
      rw [hb] at this
      exact absurd rfl this
    · rename_i hw
      rw [hk] at hb
      cases hb
      exact ⟨hk, by simpa using hw⟩
  all_goals simp_all

theorem withdrawals_offered {which : Origin → Bool} {c : Addr} {h : Holder} {o : Origin} {r : Countdown} :
    ∀ {l : List Addr} {s : State}, (l.foldl (fun t a => t.withdrawOffer which a) s).binding c = .offered h o r →
      s.binding c = .offered h o r ∧ (c ∈ l → which o = false)
  | [], _, hb => ⟨hb, nofun⟩
  | a :: l, s, hb => by
    obtain ⟨hb', hl⟩ := withdrawals_offered (l := l) (s := s.withdrawOffer which a) hb
    by_cases hc : c = a
    · subst hc
      obtain ⟨hs, hw⟩ := State.withdrawOffer_offered hb'
      exact ⟨hs, fun _ => hw⟩
    · rw [State.withdrawOffer_others which hc] at hb'
      exact ⟨hb', fun hmem => hl ((List.mem_cons.mp hmem).resolve_left hc)⟩

/-- START leaves no offer (R100). -/
theorem State.withdrawOffers_offered (s : State) : s.withdrawOffers.offeredCount = 0 := by
  unfold State.offeredCount State.countBindings
  rw [List.countP_eq_zero]
  intro c _ hc
  cases hb : s.withdrawOffers.binding c with
  | offered h o r =>
    obtain ⟨hb1, hother⟩ := withdrawals_offered hb
    obtain ⟨_, hfree⟩ := withdrawals_offered hb1
    have h1 := hother (mem_allAddrs c)
    have h2 := hfree (List.mem_reverse.mpr (mem_allAddrs c))
    simp [h2] at h1
  | free | reserved _ | bound _ _ _ _ | held _ _ | contested _ _ _ _ _ _ => simp [hb, Binding.state] at hc

theorem Edits.startDirectory {tame : Bool} {short : Prop} {w : Nat} {s : State} (hw : w ≤ 60) :
    Edits tame short s (startDirectory w s).state := by
  unfold Machine.startDirectory
  split
  · dsimp only
    split
    · exact .one .running
    · rename_i hz
      refine Edits.then_same (Edits.trans (t := s.withdrawOffers) ?_
        (.one (.recalling w (Nat.one_le_iff_ne_zero.mpr hz) hw s.withdrawOffers_offered))) (.broadcast _ _)
      exact Edits.trans (Edits.foldl (fun t a => .withdrawOffer _ a t) _ s) (Edits.foldl (fun t a => .withdrawOffer _ a t) _ _)
  · exact .failed _ _

theorem Edits.stopDirectory {tame : Bool} {short : Prop} (u : Unit) (s : State) :
    Edits tame short s (stopDirectory u s).state := by
  unfold Machine.stopDirectory
  split
  · exact .failed _ _
  · exact ((Edits.one .stop).then_same (.endListing .a _)).then_same (.endListing .b _)

theorem Edits.clearDirectory {tame : Bool} {short : Prop} (k : Bool × Bool) (s : State) :
    Edits tame short s (clearDirectory k s).state := by
  unfold Machine.clearDirectory
  split
  · rename_i hs
    exact .one (.clear k.1 k.2 .rfl hs)
  · exact .failed _ _

/-! ### Groups -/

theorem Edits.openGroup {tame : Bool} {short : Prop} {p : GroupNo × Nat × JoinPolicy} {s : State}
    (hl : 1 ≤ p.2.1 ∧ p.2.1 ≤ 12) : Edits tame short s (openGroup p s).state := by
  obtain ⟨g, limit, policy⟩ := p
  unfold Machine.openGroup
  dsimp only at *
  split
  · rename_i hg
    refine .one (.regroup g _ s.poolFree (by simp [hg, GroupRecord.members]) (fun _ => ?_) (by simp [GroupRecord.members]))
    simp only [GroupRecord.lawful, decide_eq_true_eq]
    exact ⟨hl.1, hl.2, Nat.zero_le _, List.nodup_nil⟩
  · rename_i was q m hg
    split
    · exact .failed _ _
    · refine .one (.regroup g _ s.poolFree (by simp [hg, GroupRecord.members]) (fun hlaw => ?_)
        (fun a ha => .inl (by rw [hg]; exact ha)))
      rw [hg] at hlaw
      simp only [GroupRecord.lawful, decide_eq_true_eq] at *
      exact ⟨hl.1, hl.2, by omega, hlaw.2.2.2⟩

theorem Edits.closeGroup {tame : Bool} {short : Prop} (g : GroupNo) (s : State) :
    Edits tame short s (closeGroup g s).state := by
  unfold Machine.closeGroup
  split
  · exact .failed _ _
  · rename_i limit p m hg
    refine Edits.then_same (.one (.regroup g .unused (s.poolFree + m.length) ?_ (fun _ => rfl) nofun)) (.broadcast _ _)
    simp [hg, GroupRecord.members]

theorem Edits.addMember {tame : Bool} {short : Prop} (p : GroupNo × Addr) (s : State) :
    Edits tame short s (addMember p s).state := by
  obtain ⟨g, a⟩ := p
  unfold Machine.addMember
  dsimp only
  split
  · exact .failed _ _
  · rename_i limit q m hg
    split
    · exact .failed _ _
    · rename_i hb
      split
      · exact .refl
      · rename_i ha
        split
        · exact .failed _ _
        · split
          · exact .failed _ _
          · exact .appendMember hg (by simpa using ha) (by omega) ‹_› (by simpa using hb)

theorem Edits.removeMemberOf {tame : Bool} {short : Prop} (p : GroupNo × Addr) (s : State) :
    Edits tame short s (removeMemberOf p s).state := by
  obtain ⟨g, a⟩ := p
  unfold Machine.removeMemberOf
  dsimp only
  split
  · exact .failed _ _
  · rename_i limit q m hg
    split
    · exact .removeMember hg
    · exact .failed _ _

/-! ### Timers -/

theorem Edits.lapseOffer {tame : Bool} {short : Prop} (a : Addr) (s : State) : Edits tame short s (s.lapseOffer a) := by
  unfold State.lapseOffer
  split
  · rename_i h o r hb
    split
    · exact (Edits.returnOffer (.self (by rw [hb]; rfl)) o .lapse true).then_same (.commit _ _ _)
    · exact .refl
  all_goals exact .refl

theorem Edits.expireLease {tame : Bool} {short : Prop} (a : Addr) (s : State) : Edits tame short s (s.expireLease a) := by
  unfold State.expireLease
  split
  · rename_i h g r v p hb
    split
    · exact (Edits.giveUp (.self (by rw [hb]; rfl)) (.timed g r) v true).then_same (.commit _ _ _)
    · exact .refl
  all_goals exact .refl

theorem Edits.expireHold {tame : Bool} {short : Prop} (a : Addr) (s : State) : Edits tame short s (s.expireHold a) := by
  unfold State.expireHold
  split
  · split
    · exact (Edits.goFree .holdExpiry a s).then_same (.commit _ _ _)
    · exact .refl
  all_goals exact .refl

theorem Edits.expireContest {tame : Bool} {short : Prop} (a : Addr) (s : State) :
    Edits tame short s (s.expireContest a) := by
  unfold State.expireContest
  split
  · rename_i h l v p c r hb
    split
    · exact ((Edits.keepIncumbent (.self (by rw [hb]; rfl)) l v).then_same (.sendVacate _ _ _ _ _)).then_same (.commit _ _ _)
    · exact .refl
  all_goals exact .refl

theorem Edits.expireWait {tame : Bool} {short : Prop} (x : Identity) (s : State) : Edits tame short s (s.expireWait x) :=
  .one (.entries _ (List.Sublist.map _ List.filter_sublist) (fun e he => ⟨e, (List.mem_filter.mp he).1, rfl, rfl⟩))

theorem Edits.expireRecall {tame : Bool} {short : Prop} (s : State) : Edits tame short s s.expireRecall := by
  unfold State.expireRecall
  split
  · split
    · exact (Edits.one .running).then_same (.setFactor _ _)
    · exact .refl
  all_goals exact .refl

theorem Edits.expireBinding {tame : Bool} {short : Prop} (a : Addr) (s : State) :
    Edits tame short s (s.expireBinding a) := by
  unfold State.expireBinding
  split
  · exact .lapseOffer a s
  · exact .expireLease a s
  · exact .expireHold a s
  · exact .expireContest a s
  all_goals exact .refl

theorem State.expireBinding_phase (a : Addr) (s : State) : (s.expireBinding a).phase = s.phase := by
  unfold State.expireBinding State.lapseOffer State.expireLease State.expireHold State.expireContest
  (repeat' split) <;> simp

/-- The expiries outstanding at the addresses of a list are applied, in its order (R79; log 3). -/
def State.expireBindings (l : List Addr) (s : State) : State := l.foldl (fun t a => t.expireBinding a) s

/-- The admission waits that are due run out. -/
def State.expireWaits (s : State) : State := { s with admission := s.admission.filter (fun e => !e.wait.due) }

theorem State.settleDue_eq (s : State) : s.settleDue = (s.expireBindings allAddrs).expireWaits.expireRecall := by
  simp only [State.settleDue, State.expireWaits, State.expireBindings]

theorem State.expireBindings_cons (a : Addr) (l : List Addr) (s : State) :
    s.expireBindings (a :: l) = (s.expireBinding a).expireBindings l := rfl

theorem State.expireBindings_phase (l : List Addr) (s : State) : (s.expireBindings l).phase = s.phase := by
  induction l generalizing s with
  | nil => rfl
  | cons a l ih => rw [State.expireBindings_cons, ih, State.expireBinding_phase]

theorem State.expireRecall_running {s : State} (h : s.phase.isStopped = false) : s.expireRecall.phase.isStopped = false := by
  unfold State.expireRecall
  split
  · split
    · rfl
    · exact h
  all_goals exact h

theorem State.expireWaits_phase (s : State) : s.expireWaits.phase = s.phase := rfl

theorem State.settleDue_running {s : State} (h : s.phase.isStopped = false) : s.settleDue.phase.isStopped = false := by
  rw [State.settleDue_eq]
  apply State.expireRecall_running
  rw [State.expireWaits_phase, State.expireBindings_phase, h]

theorem Edits.expireBindings {tame : Bool} {short : Prop} (l : List Addr) (s : State) :
    Edits tame short s (s.expireBindings l) :=
  Edits.foldl (fun t a => .expireBinding a t) l s

theorem Edits.expireWaits {tame : Bool} {short : Prop} (s : State) : Edits tame short s s.expireWaits :=
  .one (.entries _ (List.Sublist.map _ List.filter_sublist) (fun e he => ⟨e, (List.mem_filter.mp he).1, rfl, rfl⟩))

theorem Edits.settleDue {tame : Bool} {short : Prop} (s : State) : Edits tame short s s.settleDue := by
  rw [State.settleDue_eq]
  exact Edits.trans (Edits.trans (.expireBindings allAddrs s) (.expireWaits _)) (.expireRecall _)

theorem State.openBoundary_phase (s : State) : s.openBoundary.phase = s.phase := rfl

theorem State.SameDirectory.openBoundary (s : State) : s.SameDirectory s.openBoundary := by
  constructor <;> intros <;> rfl

theorem Edits.secondsBoundary {tame : Bool} {short : Prop} (s : State) : Edits tame short s s.secondsBoundary := by
  unfold State.secondsBoundary
  split
  · exact .refl
  · split
    · exact .one (.same (.openBoundary s))
    · rename_i hs
      refine Edits.trans ((Edits.settleDue s).then_same (.openBoundary _)) (.one (.tick ?_))
      rw [State.openBoundary_phase]
      exact State.settleDue_running (by simpa using hs)

end Sys2Proof.Machine
end

section
/-! PROOFS. What a step can do to the segment lines and the listing units, as a chain of a few kinds of edit, and the laws of
the lines and of the listings shown of one edit at a time. -/

namespace Sys2Proof.Machine

/-! ### Controllers -/

/-- A frame joins the queue of a controller that is not IDLE (R155). -/
theorem Controller.joinQueue_busy {c : Controller} (h : c.line ≠ .idle) (f : QueuedFrame) :
    c.joinQueue f = { c with queue := c.queue ++ [f] } := by
  unfold Controller.joinQueue
  split
  · contradiction
  all_goals rfl

/-- A frame joins the queue of an IDLE controller, which waits or sends at once (R155, R165). -/
theorem Controller.joinQueue_idle {c : Controller} (h : c.line = .idle) (f : QueuedFrame) :
    c.joinQueue f = { c with
      queue := c.queue ++ [f]
      line := if 4 ≤ c.idle then .transmitting false else .waitGap
      idle := if 4 ≤ c.idle then 0 else c.idle } := by
  by_cases hi : 4 ≤ c.idle <;> simp [Controller.joinQueue, h, Config.transmitIdle, hi]

/-- What a frame that joins the queue leaves of the controller. -/
theorem Controller.joinQueue_facts (c : Controller) (f : QueuedFrame) :
    (c.joinQueue f).queue = c.queue ++ [f] ∧ (c.joinQueue f).ready = c.ready
      ∧ (c.joinQueue f).collisions = c.collisions ∧ (c.joinQueue f).line.isDisabled = c.line.isDisabled := by
  by_cases h : c.line = .idle
  · rw [Controller.joinQueue_idle h, h]
    refine ⟨rfl, rfl, rfl, ?_⟩
    dsimp only
    split <;> rfl
  · rw [Controller.joinQueue_busy h]
    exact ⟨rfl, rfl, rfl, rfl⟩

theorem Controller.Lawful.joinQueue {c : Controller} (h : c.Lawful) (hd : c.line.isDisabled = false)
    (hq : c.queue.length < 4) (f : QueuedFrame) : (c.joinQueue f).Lawful := by
  obtain ⟨hready, _, hcoll, hst⟩ := h
  have hlen : (c.queue ++ [f]).length ≤ 4 := by simp; omega
  by_cases hl : c.line = .idle
  · rw [Controller.joinQueue_idle hl]
    simp only [Controller.stateLawful, hl, LineState.isFilling, Bool.and_eq_true, decide_eq_true_eq] at hready hst
    split
    · exact ⟨by simpa [LineState.isFilling] using hready, hlen, hcoll, by simp [Controller.stateLawful]⟩
    · exact ⟨by simpa [LineState.isFilling] using hready, hlen, hcoll, by simp [Controller.stateLawful, hst]⟩
  · rw [Controller.joinQueue_busy hl]
    refine ⟨hready, hlen, hcoll, ?_⟩
    simp only [Controller.stateLawful] at hst ⊢
    cases hc : c.line <;> simp_all [LineState.isDisabled]

theorem length_dropOldestNotice {q : List QueuedFrame} (h : q.any QueuedFrame.isNotice = true) :
    (dropOldestNotice q).length + 1 = q.length := by
  induction q with
  | nil => simp at h
  | cons f q ih =>
    unfold dropOldestNotice
    split
    · simp
    · rename_i hf
      simp only [List.any_cons, hf, Bool.false_or] at h
      simp [ih h]

theorem sublist_dropOldestNotice (q : List QueuedFrame) : (dropOldestNotice q).Sublist q := by
  induction q with
  | nil => exact List.Sublist.refl _
  | cons x q ih =>
    unfold dropOldestNotice
    split
    · exact List.sublist_cons_self _ _
    · exact ih.cons_cons _

/-- A notice is no copy of a LISTING frame. -/
theorem awaited_dropOldestNotice (q : List QueuedFrame) :
    (dropOldestNotice q).countP QueuedFrame.isAwaited = q.countP QueuedFrame.isAwaited := by
  induction q with
  | nil => rfl
  | cons x q ih =>
    unfold dropOldestNotice
    split
    · rename_i hx
      have : x.isAwaited = false := by
        have : x.cls = .notice := by simpa [QueuedFrame.isNotice] using hx
        simp [QueuedFrame.isAwaited, this]
      simp [this]
    · simp [List.countP_cons, ih]

/-- The queue after the oldest notice has left it. -/
theorem Controller.queue_removeNotice (c : Controller) : c.removeNotice.queue = dropOldestNotice c.queue := by
  unfold Controller.removeNotice
  split
  · rename_i h; simp [h, dropOldestNotice]
  · rename_i f q h
    rw [h, dropOldestNotice]
    split
    · split <;> rfl
    · rfl

theorem Controller.ready_removeNotice (c : Controller) : c.removeNotice.ready = c.ready := by
  unfold Controller.removeNotice
  split
  · rfl
  · split
    · split <;> rfl
    · rfl

theorem restState_disabled (q : List QueuedFrame) : (restState q).isDisabled = false := by
  unfold restState; split <;> rfl

theorem Controller.isDisabled_removeNotice (c : Controller) : c.removeNotice.line.isDisabled = c.line.isDisabled := by
  unfold Controller.removeNotice
  split
  · rfl
  · split
    · split <;> simp only [*, restState_disabled] <;> rfl
    · rfl

theorem restState_lawful {c : Controller} (hl : c.line = restState c.queue) (hc : c.collisions = 0) : c.stateLawful = true := by
  unfold Controller.stateLawful
  rw [hl]
  cases hq : c.queue <;> simp [restState, hc]

theorem restState_filling (q : List QueuedFrame) : (restState q).isFilling = false := by
  unfold restState; split <;> rfl

theorem Controller.Lawful.removeNotice {c : Controller} (h : c.Lawful) (hq : 2 ≤ c.queue.length) : c.removeNotice.Lawful := by
  obtain ⟨hready, hlen, hcoll, hst⟩ := h
  unfold Controller.removeNotice
  split
  · exact ⟨hready, hlen, hcoll, hst⟩
  · rename_i f q hfq
    have hne : q ≠ [] := by rintro rfl; rw [hfq] at hq; simp at hq
    have hle : q.length ≤ 4 := by rw [hfq] at hlen; simp at hlen; omega
    split
    · split
      · exact ⟨by simpa [LineState.isFilling] using by omega, hle, Nat.zero_le _, by simp [Controller.stateLawful, hne]⟩
      · exact ⟨by simp [restState_filling]; omega, hle, Nat.zero_le _, restState_lawful rfl rfl⟩
      · exact ⟨by simp [restState_filling]; omega, hle, Nat.zero_le _, restState_lawful rfl rfl⟩
      · rename_i hl; simp [Controller.stateLawful, hl, hfq] at hst
      · rename_i hl; simp [Controller.stateLawful, hl, hfq] at hst
      · rename_i hl; exact ⟨hready, hle, Nat.zero_le _, by simp [Controller.stateLawful, hl]⟩
    · rename_i hf
      refine ⟨hready, ?_, hcoll, ?_⟩
      · have := (sublist_dropOldestNotice q).length_le
        exact Nat.succ_le_succ (by rw [hfq] at hlen; simp at hlen; omega)
      · unfold Controller.stateLawful at *
        simp only at *
        cases hl : c.line <;> simp_all

/-! ### Edits of the lines -/

/-- What is said of the numbers of a listing in progress (R130 to R132). -/
def Listing.inRange (l : Listing) : Prop :=
  1 ≤ l.sends ∧ l.sends ≤ 4 ∧ l.built.index ≤ 23 ∧ l.built.entries.length ≤ 4 ∧ 4 * l.built.index + 1 ≤ l.next
    ∧ (l.built.endFlag = false → 4 * l.built.index + 5 ≤ l.next) ∧ l.next ≤ 96

/-- A frame the directory may queue (R37, R47, R195). -/
def Frame.sendable (f : Frame) : Prop := f.source = directoryAddress ∧ f.body.length ≤ 40

/-- The records from which replies are written are within their lengths. -/
def State.RepliesShort (s : State) : Prop := (∀ g, (s.group g).lawful = true) ∧ s.RecordsFit

/-- One edit of the lines and the listing units, in a chain that began at `s0`. -/
inductive LineEdit (s0 s : State) : State → Prop
  /-- no controller and no listing unit changes -/
  | same {t : State} (hl : ∀ k, t.line k = s.line k) (hi : ∀ k, t.listing k = s.listing k) : LineEdit s0 s t
  /-- a reply is handed over -/
  | reply (seg : Segment) (f : Frame) (hf : s0.RepliesShort → f.sendable) : LineEdit s0 s (s.handReply seg f)
  /-- a notice is handed over -/
  | notice (seg : Segment) (f : Frame) (hf : f.sendable) : LineEdit s0 s (s.handNotice seg f)
  /-- a listing ends -/
  | ends (seg : Segment) : LineEdit s0 s (s.endListing seg)
  /-- a frame is sent for a unit that is idle or whose acknowledgement timer runs -/
  | send (seg : Segment) (k : Listing) (hidle : ∀ l, s.listing seg = some l → l.timer ≠ none)
      (hk : s0.LinesLawful → s0.ListingsLawful → k.inRange ∧ s.enabled seg = true)
      (he : s0.FramesFit → k.built.entries.length ≤ 4) :
      LineEdit s0 s ((s.setListing seg (some k)).sendListing seg)
  /-- a controller changes, and keeps its queue -/
  | line (seg : Segment) (c : Controller) (hq : c.queue = (s.line seg).queue)
      (hd : c.line.isDisabled = (s.line seg).line.isDisabled)
      (hr : ∀ f ∈ c.ready, f ∈ (s.line seg).ready ∨ (f.body.length ≤ 40 ∧ sourceOk f.source = true))
      (hl : (s.line seg).Lawful → c.Lawful) : LineEdit s0 s (s.setLine seg c)
  /-- the head frame leaves the queue -/
  | gone (seg : Segment) (f : QueuedFrame) (q : List QueuedFrame) (hl : (s.line seg).line = .transmitting false)
      (hq : (s.line seg).queue = f :: q) :
      LineEdit s0 s ((s.setLine seg ((s.line seg).headGone q)).reportSendEnd seg f)
  /-- a segment is enabled -/
  | enable (seg : Segment) : LineEdit s0 s (s.setLine seg (s.line seg).enable)
  /-- a segment is disabled -/
  | disable (seg : Segment) : LineEdit s0 s (s.disableLine seg)
  /-- the part is reset -/
  | reset {t : State} (hl : ∀ k, t.line k = State.reset.line k) (hi : ∀ k, t.listing k = State.reset.listing k) :
      LineEdit s0 s t

/-- A chain of edits of the lines. -/
abbrev LineEdits (s0 : State) : State → State → Prop := Chain (LineEdit s0)

/-! ### What the hand-over of a frame does to each controller -/

/-- A controller is left as it is, a frame joins its queue, or a frame joins after the oldest notice has left it
(R50, R51). -/
inductive Handed (f : QueuedFrame) (c : Controller) : Controller → Prop
  | dropped : Handed f c c
  | joined (hd : c.line.isDisabled = false) (hq : c.queue.length < 4) : Handed f c (c.joinQueue f)
  | replaced (hd : c.line.isDisabled = false) (hq : 4 ≤ c.queue.length) (hn : c.queue.any QueuedFrame.isNotice = true) :
      Handed f c (c.removeNotice.joinQueue f)

theorem State.line_handReply (seg k : Segment) (f : Frame) (s : State) :
    Handed ⟨.reply, f⟩ (s.line k) ((s.handReply seg f).line k) := by
  unfold State.handReply
  dsimp only
  split
  · exact .dropped
  · rename_i hd
    split
    · rename_i hq
      rw [State.line_setLine]
      split
      · rename_i hk; subst hk; exact .joined (by simpa using hd) hq
      · exact .dropped
    · rename_i hq
      split
      · rename_i hn
        simp only [State.setFactor_keeps, State.line_setLine]
        split
        · rename_i hk; subst hk; exact .replaced (by simpa using hd) (by simpa [Config.transmitPlaces] using hq) hn
        · exact .dropped
      · exact .dropped

theorem State.line_handNotice (seg k : Segment) (f : Frame) (s : State) :
    Handed ⟨.notice, f⟩ (s.line k) ((s.handNotice seg f).line k) := by
  unfold State.handNotice
  dsimp only
  split
  · rename_i h
    simp only [Bool.and_eq_true, Bool.not_eq_true', decide_eq_true_eq] at h
    rw [State.line_setLine]
    split
    · rename_i hk; subst hk; exact .joined h.1 h.2
    · exact .dropped
  · simpa using .dropped

theorem Handed.lawful {f : QueuedFrame} {c d : Controller} (h : Handed f c d) (hc : c.Lawful) : d.Lawful := by
  cases h with
  | dropped => exact hc
  | joined hd hq => exact hc.joinQueue hd hq f
  | replaced hd hq hn =>
    refine (hc.removeNotice (by omega)).joinQueue (by rw [Controller.isDisabled_removeNotice, hd]) ?_ f
    have := length_dropOldestNotice hn
    have := hc.2.1
    rw [Controller.queue_removeNotice]
    omega

/-- A frame that is no copy of a LISTING frame leaves the count of the copies. -/
theorem Handed.awaited {f : QueuedFrame} {c d : Controller} (h : Handed f c d) (hf : f.isAwaited = false) :
    d.queue.countP QueuedFrame.isAwaited = c.queue.countP QueuedFrame.isAwaited
      ∧ d.line.isDisabled = c.line.isDisabled := by
  cases h with
  | dropped => exact ⟨rfl, rfl⟩
  | joined _ _ =>
    obtain ⟨hq, _, _, hd⟩ := Controller.joinQueue_facts c f
    simp [hq, hd, hf]
  | replaced _ _ _ =>
    obtain ⟨hq, _, _, hd⟩ := Controller.joinQueue_facts c.removeNotice f
    simp [hq, hd, hf, Controller.queue_removeNotice, awaited_dropOldestNotice, Controller.isDisabled_removeNotice]

theorem Handed.frames {f : QueuedFrame} {c d : Controller} (h : Handed f c d) :
    (∀ q ∈ d.queue, q ∈ c.queue ∨ q = f) ∧ d.ready = c.ready := by
  cases h with
  | dropped => exact ⟨fun q hq => .inl hq, rfl⟩
  | joined _ _ =>
    obtain ⟨hq, hr, _, _⟩ := Controller.joinQueue_facts c f
    rw [hq, hr]
    exact ⟨fun q hq => (List.mem_append.mp hq).imp id List.mem_singleton.mp, rfl⟩
  | replaced _ _ _ =>
    obtain ⟨hq, hr, _, _⟩ := Controller.joinQueue_facts c.removeNotice f
    rw [hq, hr, Controller.queue_removeNotice, Controller.ready_removeNotice]
    exact ⟨fun q hq => (List.mem_append.mp hq).imp (fun h => (sublist_dropOldestNotice _).subset h) List.mem_singleton.mp, rfl⟩

/-! ### The lines (R155 to R167) -/

theorem Controller.lawful_disown {c : Controller} (h : c.Lawful) :
    ({ c with queue := c.queue.map QueuedFrame.disown } : Controller).Lawful := by
  obtain ⟨hready, hlen, hcoll, hst⟩ := h
  refine ⟨hready, by simpa using hlen, hcoll, ?_⟩
  simp only [Controller.stateLawful, List.isEmpty_map] at hst ⊢
  exact hst

theorem Controller.lawful_headGone {c : Controller} {f : QueuedFrame} {q : List QueuedFrame} (h : c.Lawful)
    (hq : c.queue = f :: q) : (c.headGone q).Lawful := by
  obtain ⟨hready, hlen, hcoll, hst⟩ := h
  refine ⟨?_, ?_, Nat.zero_le _, restState_lawful rfl rfl⟩
  · simp [Controller.headGone, restState_filling]; omega
  · rw [hq] at hlen; simp at hlen; simp [Controller.headGone]; omega

theorem Controller.lawful_enable {c : Controller} (h : c.Lawful) : c.enable.Lawful := by
  unfold Controller.enable
  split
  · exact ⟨by simp [LineState.isFilling], by simp, by simp, by simp [Controller.stateLawful]⟩
  · exact h

theorem Controller.lawful_disable (c : Controller) : c.disable.Lawful :=
  ⟨by simp [Controller.disable, LineState.isFilling], by simp [Controller.disable], by simp [Controller.disable],
    by simp [Controller.disable, Controller.stateLawful]⟩

theorem Controller.lawful_reset : Controller.reset.Lawful := by decide

/-- The controllers of a segment after a listing ended (R137). -/
theorem State.line_endListing (seg k : Segment) (s : State) :
    (s.endListing seg).line k =
      if k = seg then { s.line k with queue := (s.line k).queue.map QueuedFrame.disown } else s.line k := by
  simp only [State.endListing, State.disownCopies, State.line_setLine, State.setListing_keeps]
  split
  · rename_i h; subst h; rfl
  · rfl

theorem State.listing_endListing (seg k : Segment) (s : State) :
    (s.endListing seg).listing k = if k = seg then none else s.listing k := by
  simp [State.endListing, State.listing_setListing]

theorem State.line_reportSendEnd (seg k : Segment) (f : QueuedFrame) (s : State) :
    (s.reportSendEnd seg f).line k = s.line k := by
  unfold State.reportSendEnd State.sendEnd
  split
  · split <;> simp
  · rfl

theorem State.line_disableLine (seg k : Segment) (s : State) :
    (s.disableLine seg).line k =
      if k = seg ∧ (s.line seg).line.isDisabled = false then (s.line k).disable else s.line k := by
  unfold State.disableLine
  dsimp only
  split
  · rename_i h; simp [h]
  · rename_i h
    by_cases hk : k = seg
    · subst hk; split <;> simp [h]
    · split <;> simp [h, hk]

/-- What a send does to the controllers and the units (R52, R133). -/
theorem State.sendListing_cases (seg : Segment) (k : Listing) (s : State) :
    ((s.line seg).line.isDisabled = false ∧ (s.line seg).queue.length < 4
        ∧ (s.setListing seg (some k)).sendListing seg
          = (s.setListing seg (some { k with timer := none })).setLine seg ((s.line seg).joinQueue ⟨.listing true, k.frame⟩))
      ∨ (s.setListing seg (some k)).sendListing seg = s.setListing seg (some { k with timer := some Config.ackTimeout }) := by
  have hl : (s.setListing seg (some k)).listing seg = some k := by simp
  by_cases hj : (s.line seg).line.isDisabled = false ∧ (s.line seg).queue.length < Config.transmitPlaces
  · refine .inl ⟨hj.1, hj.2, ?_⟩
    rw [State.sendListing_joins hl (by simpa using hj.1) (by simpa using hj.2), State.setListing_setListing]
    simp
  · refine .inr ?_
    rw [State.sendListing_dropped hl, State.setListing_setListing]
    by_cases hd : (s.line seg).line.isDisabled = false
    · exact .inr (by simpa using Nat.not_lt.mp fun h => hj ⟨hd, h⟩)
    · exact .inl (by simpa using hd)

/-- Every edit keeps each segment within what its state allows. -/
theorem LineEdit.lawful {s0 s t : State} (e : LineEdit s0 s t) (h : ∀ k, (s.line k).Lawful) : ∀ k, (t.line k).Lawful := by
  intro k
  cases e with
  | same hl _ => rw [hl]; exact h k
  | reply seg f _ => exact (State.line_handReply seg k f s).lawful (h k)
  | notice seg f _ => exact (State.line_handNotice seg k f s).lawful (h k)
  | ends seg =>
    rw [State.line_endListing]
    split
    · exact Controller.lawful_disown (h k)
    · exact h k
  | send seg l _ _ _ =>
    rcases State.sendListing_cases seg l s with ⟨hd, hq, he⟩ | he
    · rw [he, State.line_setLine]
      split
      · exact (h seg).joinQueue hd hq _
      · simpa using h k
    · rw [he]; simpa using h k
  | line seg c _ _ _ hl =>
    rw [State.line_setLine]
    split
    · exact hl (h seg)
    · exact h k
  | gone seg f q _ hq =>
    rw [State.line_reportSendEnd, State.line_setLine]
    split
    · exact Controller.lawful_headGone (h seg) hq
    · exact h k
  | enable seg =>
    rw [State.line_setLine]
    split
    · exact Controller.lawful_enable (h seg)
    · exact h k
  | disable seg =>
    rw [State.line_disableLine]
    split
    · exact Controller.lawful_disable _
    · exact h k
  | reset hl _ => rw [hl]; cases k <;> exact Controller.lawful_reset


end Sys2Proof.Machine
end

section
/-! PROOFS. The laws of the listing units and of the frames that wait, shown of one edit of the lines at a time. -/

namespace Sys2Proof.Machine

/-! ### Listing units (R130 to R137) -/

/-- The copies of a LISTING frame in the queue of a segment whose send end its unit waits for (R133). -/
def State.awaited (s : State) (seg : Segment) : Nat := (s.line seg).queue.countP QueuedFrame.isAwaited

/-- What is said of a listing unit and its segment alone: the law of the listings without the phase and the requester's
binding. -/
structure State.UnitLawful (s : State) (seg : Segment) : Prop where
  idle : s.listing seg = none → s.awaited seg = 0
  running : ∀ l, s.listing seg = some l →
    s.enabled seg = true ∧ l.inRange ∧ s.awaited seg = if l.timer.isNone then 1 else 0

/-- Every listing runs outside STOPPED for a bound requester (R131, R137). -/
def State.RequestersStand (s : State) : Prop :=
  ∀ seg l, s.listing seg = some l → s.phase.isStopped = false ∧ (s.binding l.requester).isBound = true

/-- The law of the listings, in its two parts. -/
theorem State.listingsLawful_iff (s : State) :
    s.ListingsLawful ↔ (∀ seg, s.UnitLawful seg) ∧ s.RequestersStand := by
  have hseg : s.ListingsLawful ↔ ∀ seg, s.listingLawful seg = true :=
    ⟨fun h seg => h seg (by cases seg <;> simp), fun h seg _ => h seg⟩
  rw [hseg]
  unfold State.RequestersStand
  rw [← forall_and]
  refine forall_congr' (fun seg => ?_)
  unfold State.listingLawful
  cases hl : s.listing seg with
  | none =>
    simp only [decide_eq_true_eq]
    exact ⟨fun h => ⟨⟨fun _ => h, fun l hl' => by rw [hl] at hl'; cases hl'⟩, nofun⟩, fun h => h.1.idle hl⟩
  | some l =>
    simp only [Bool.and_eq_true, decide_eq_true_eq, Bool.not_eq_true']
    constructor
    · rintro ⟨⟨⟨⟨hp, he⟩, hb⟩, hn⟩, hc⟩
      refine ⟨⟨fun h => (by rw [hl] at h; cases h), fun k hk => ?_⟩, fun k hk => ?_⟩
      · rw [hl] at hk; cases hk; exact ⟨he, hn, hc⟩
      · cases hk; exact ⟨hp, hb⟩
    · rintro ⟨hu, hr⟩
      obtain ⟨he, hn, hc⟩ := hu.running l hl
      obtain ⟨hp, hb⟩ := hr l rfl
      exact ⟨⟨⟨⟨hp, he⟩, hb⟩, hn⟩, hc⟩

theorem State.UnitLawful.congr {s t : State} {k : Segment} (h : s.UnitLawful k) (hi : t.listing k = s.listing k)
    (hc : t.awaited k = s.awaited k) (hd : (t.line k).line.isDisabled = (s.line k).line.isDisabled) : t.UnitLawful k := by
  refine ⟨fun hn => by rw [hc]; exact h.idle (hi ▸ hn), fun l hl => ?_⟩
  obtain ⟨he, hn, hcount⟩ := h.running l (hi ▸ hl)
  exact ⟨by simpa [State.enabled, hd] using he, hn, by rw [hc]; exact hcount⟩

theorem QueuedFrame.isAwaited_disown (f : QueuedFrame) : f.disown.isAwaited = false := by
  unfold QueuedFrame.disown QueuedFrame.isAwaited
  split <;> simp [*]

theorem awaited_disown (q : List QueuedFrame) : (q.map QueuedFrame.disown).countP QueuedFrame.isAwaited = 0 := by
  rw [List.countP_eq_zero]
  intro f hf
  obtain ⟨g, _, rfl⟩ := List.mem_map.mp hf
  simp [QueuedFrame.isAwaited_disown]

/-- A unit that is idle, or whose acknowledgement timer runs, waits for no send end. -/
theorem State.UnitLawful.awaited_zero {s : State} {k : Segment} (h : s.UnitLawful k)
    (hidle : ∀ l, s.listing k = some l → l.timer ≠ none) : s.awaited k = 0 := by
  cases hl : s.listing k with
  | none => exact h.idle hl
  | some l =>
    have := (h.running l hl).2.2
    rw [this]
    cases ht : l.timer with
    | none => exact absurd ht (hidle l hl)
    | some n => rfl

theorem State.UnitLawful.ended {s : State} {seg k : Segment} (h : s.UnitLawful k) : (s.endListing seg).UnitLawful k := by
  by_cases hk : k = seg
  · subst hk
    refine ⟨fun _ => ?_, fun l hl => by rw [State.listing_endListing, if_pos rfl] at hl; cases hl⟩
    rw [State.awaited, State.line_endListing, if_pos rfl]
    exact awaited_disown _
  · refine h.congr ?_ ?_ ?_
    · rw [State.listing_endListing, if_neg hk]
    · rw [State.awaited, State.line_endListing, if_neg hk, State.awaited]
    · rw [State.line_endListing, if_neg hk]

theorem State.UnitLawful.sent {s : State} {seg k : Segment} {l : Listing} (h : s.UnitLawful k)
    (hidle : ∀ m, s.listing seg = some m → m.timer ≠ none) (hr : l.inRange) (he : s.enabled seg = true) :
    ((s.setListing seg (some l)).sendListing seg).UnitLawful k := by
  obtain ⟨hq, _, _, hd⟩ := Controller.joinQueue_facts (s.line seg) ⟨.listing true, l.frame⟩
  by_cases hk : k = seg
  · subst hk
    have hz := h.awaited_zero hidle
    rcases State.sendListing_cases k l s with ⟨_, _, heq⟩ | heq
    · rw [heq]
      refine ⟨by simp, fun m hm => ?_⟩
      simp only [State.setLine_keeps, State.listing_setListing_self, Option.some.injEq] at hm
      subst hm
      refine ⟨by simpa [State.enabled, hd] using he, hr, ?_⟩
      rw [State.awaited] at hz ⊢
      simp [hq, hz, QueuedFrame.isAwaited]
    · rw [heq]
      refine ⟨by simp, fun m hm => ?_⟩
      simp only [State.listing_setListing_self, Option.some.injEq] at hm
      subst hm
      exact ⟨by simpa [State.enabled] using he, hr, by simpa [State.awaited] using hz⟩
  · rcases State.sendListing_cases seg l s with ⟨_, _, heq⟩ | heq
    · rw [heq]; exact h.congr (by simp [hk]) (by simp [State.awaited, hk]) (by simp [hk])
    · rw [heq]; exact h.congr (by simp [hk]) (by simp [State.awaited]) (by simp)

/-- The head frame leaves the queue; when it is the copy awaited, the acknowledgement timer is started (R133). -/
theorem State.UnitLawful.gone {s : State} {seg k : Segment} {f : QueuedFrame} {q : List QueuedFrame} (h : s.UnitLawful k)
    (hl : (s.line seg).line = .transmitting false) (hq : (s.line seg).queue = f :: q) :
    ((s.setLine seg ((s.line seg).headGone q)).reportSendEnd seg f).UnitLawful k := by
  have hline : ∀ k, ((s.setLine seg ((s.line seg).headGone q)).reportSendEnd seg f).line k
      = if k = seg then (s.line seg).headGone q else s.line k := by
    intro k; rw [State.line_reportSendEnd, State.line_setLine]
  have hd : ((s.line seg).headGone q).line.isDisabled = (s.line seg).line.isDisabled :=
    (restState_disabled q).trans (by rw [hl]; rfl)
  by_cases hk : k = seg
  · subst hk
    have hcount : s.awaited k = q.countP QueuedFrame.isAwaited + if f.isAwaited then 1 else 0 := by
      rw [State.awaited, hq, List.countP_cons]
    have hafter : ((s.setLine k ((s.line k).headGone q)).reportSendEnd k f).awaited k = q.countP QueuedFrame.isAwaited := by
      rw [State.awaited, hline, if_pos rfl]; rfl
    have hen : (((s.setLine k ((s.line k).headGone q)).reportSendEnd k f).line k).line.isDisabled
        = (s.line k).line.isDisabled := by rw [hline, if_pos rfl, hd]
    by_cases hf : f.isAwaited = true
    · simp only [hf, if_true] at hcount
      cases hs : s.listing k with
      | none => have := h.idle hs; omega
      | some l =>
        obtain ⟨he, hr, hc⟩ := h.running l hs
        have hlist : ((s.setLine k ((s.line k).headGone q)).reportSendEnd k f).listing k
            = some { l with timer := some Config.ackTimeout } := by
          simp [State.reportSendEnd, hf, State.sendEnd, hs]
        refine ⟨fun hn => (by rw [hlist] at hn; cases hn), fun m hm => ?_⟩
        rw [hlist, Option.some.injEq] at hm
        subst hm
        refine ⟨by simpa [State.enabled, hen] using he, hr, ?_⟩
        have hz : q.countP QueuedFrame.isAwaited = 0 := by split at hc <;> omega
        rw [hafter, hz]
        rfl
    · refine h.congr (by simp [State.reportSendEnd, hf]) ?_ hen
      rw [hafter, hcount]
      simp [hf]
  · refine h.congr ?_ ?_ ?_
    · unfold State.reportSendEnd State.sendEnd
      split
      · split <;> simp [hk]
      · simp
    · rw [State.awaited, hline, if_neg hk, State.awaited]
    · rw [hline, if_neg hk]

/-- Every edit keeps the listing units lawful. -/
theorem LineEdit.units {s0 s t : State} (e : LineEdit s0 s t) (h1 : s0.LinesLawful) (h2 : s0.ListingsLawful)
    (h : ∀ k, s.UnitLawful k) : ∀ k, t.UnitLawful k := by
  intro k
  cases e with
  | same hl hi => exact (h k).congr (hi k) (by rw [State.awaited, hl, State.awaited]) (by rw [hl])
  | reply seg f _ =>
    obtain ⟨hc, hd⟩ := (State.line_handReply seg k f s).awaited rfl
    exact (h k).congr (by simp) hc hd
  | notice seg f _ =>
    obtain ⟨hc, hd⟩ := (State.line_handNotice seg k f s).awaited rfl
    exact (h k).congr (by simp) hc hd
  | ends seg => exact (h k).ended
  | send seg l hidle hk _ => exact (h k).sent hidle (hk h1 h2).1 (hk h1 h2).2
  | line seg c hq hd _ _ =>
    by_cases hk : k = seg
    · subst hk; exact (h k).congr (by simp) (by simp [State.awaited, hq]) (by simp [hd])
    · exact (h k).congr (by simp) (by simp [State.awaited, hk]) (by simp [hk])
  | gone seg f q hl hq => exact (h k).gone hl hq
  | enable seg =>
    by_cases hk : k = seg
    · subst hk
      by_cases hd : (s.line k).line.isDisabled = true
      · have hnone : s.listing k = none := by
          cases hl : s.listing k with
          | none => rfl
          | some l => have := ((h k).running l hl).1; simp [State.enabled, hd] at this
        refine ⟨fun _ => by simp [State.awaited, Controller.enable, hd], fun l hl => ?_⟩
        simp [hnone] at hl
      · exact (h k).congr (by simp) (by simp [State.awaited, Controller.enable, hd]) (by simp [Controller.enable, hd])
    · exact (h k).congr (by simp) (by simp [State.awaited, hk]) (by simp [hk])
  | disable seg =>
    by_cases hd : (s.line seg).line.isDisabled = true
    · rw [show s.disableLine seg = s by simp [State.disableLine, hd]]; exact h k
    · have hi : (s.disableLine seg).listing k = if k = seg then none else s.listing k := by
        unfold State.disableLine
        dsimp only
        split
        · contradiction
        · split <;> simp [State.listing_setListing]
      by_cases hk : k = seg
      · subst hk
        refine ⟨fun _ => ?_, fun l hl => by rw [hi, if_pos rfl] at hl; cases hl⟩
        simp [State.awaited, State.line_disableLine, hd, Controller.disable]
      · exact (h k).congr (by rw [hi, if_neg hk]) (by simp [State.awaited, State.line_disableLine, hk])
          (by simp [State.line_disableLine, hk])
  | reset hl hi =>
    have hnone : t.listing k = none := by rw [hi]; cases k <;> rfl
    refine ⟨fun _ => ?_, fun l hl => by rw [hnone] at hl; cases hl⟩
    rw [State.awaited, hl]
    cases k <;> rfl

/-! ### Frames that wait (R37, R47, R161, R195) -/

/-- The frames of a segment are within their lengths. -/
structure State.LineFits (s : State) (seg : Segment) : Prop where
  queue : ∀ q ∈ (s.line seg).queue, q.frame.sendable
  ready : ∀ f ∈ (s.line seg).ready, f.body.length ≤ 40 ∧ sourceOk f.source = true
  entries : ∀ l, s.listing seg = some l → l.built.entries.length ≤ 4

/-- The lengths of all frames, in their four parts. -/
theorem State.framesFit_iff (s : State) :
    s.FramesFit ↔ s.RecordsFit ∧ s.port.state.fits = true ∧ ∀ seg, s.LineFits seg := by
  constructor
  · rintro ⟨hb, ha, hp, hl⟩
    refine ⟨⟨hb, ha⟩, hp, fun seg => ?_⟩
    obtain ⟨hq, hr, he⟩ := hl seg (by cases seg <;> simp)
    exact ⟨hq, hr, fun l h => he l (by simp [h])⟩
  · rintro ⟨⟨hb, ha⟩, hp, hl⟩
    refine ⟨hb, ha, hp, fun seg _ => ⟨(hl seg).queue, (hl seg).ready, fun l h => (hl seg).entries l ?_⟩⟩
    simpa using h

theorem State.LineFits.congr {s t : State} {k : Segment} (h : s.LineFits k)
    (hq : ∀ q ∈ (t.line k).queue, q ∈ (s.line k).queue ∨ q.frame.sendable)
    (hr : ∀ f ∈ (t.line k).ready, f ∈ (s.line k).ready ∨ (f.body.length ≤ 40 ∧ sourceOk f.source = true))
    (hi : ∀ l, t.listing k = some l → l.built.entries.length ≤ 4 ∨ s.listing k = some l) : t.LineFits k :=
  ⟨fun q hm => (hq q hm).elim (h.queue q) id, fun f hm => (hr f hm).elim (h.ready f) id,
    fun l hl => (hi l hl).elim id (h.entries l)⟩

theorem ListingEntry.length_bytes (e : ListingEntry) : e.bytes.length = 9 := rfl

/-- Items of one length after another. -/
theorem length_flatMap_of_length {α : Type} {f : α → List Byte} {n : Nat} (hf : ∀ x, (f x).length = n) (l : List α) :
    (l.flatMap f).length = n * l.length := by
  induction l with
  | nil => rfl
  | cons x l ih => rw [List.flatMap_cons, List.length_append, ih, hf, List.length_cons, Nat.mul_succ, Nat.add_comm]

/-- The LISTING frame of a unit is one the directory may queue (R132, R197). -/
theorem Listing.frame_sendable {l : Listing} (h : l.built.entries.length ≤ 4) : l.frame.sendable := by
  refine ⟨rfl, ?_⟩
  have hsum := length_flatMap_of_length ListingEntry.length_bytes l.built.entries
  simp only [Listing.frame, BuiltFrame.body, List.length_cons, List.length_append, hsum, le16, List.length_nil]
  omega

theorem QueuedFrame.frame_disown (f : QueuedFrame) : f.disown.frame = f.frame := by
  unfold QueuedFrame.disown; split <;> rfl

theorem State.listing_reportSendEnd {seg k : Segment} {f : QueuedFrame} {s : State} {l : Listing}
    (h : (s.reportSendEnd seg f).listing k = some l) :
    ∃ m, s.listing k = some m ∧ l.built = m.built ∧ l.requester = m.requester := by
  unfold State.reportSendEnd State.sendEnd at h
  split at h
  · split at h
    · exact ⟨l, h, rfl, rfl⟩
    · rename_i m hm
      rw [State.listing_setListing] at h
      split at h
      · rename_i hk; subst hk; cases h; exact ⟨m, hm, rfl, rfl⟩
      · exact ⟨l, h, rfl, rfl⟩
  · exact ⟨l, h, rfl, rfl⟩

/-- Every edit keeps the frames that wait within their lengths. -/
theorem LineEdit.fits {s0 s t : State} (e : LineEdit s0 s t) (h1 : s0.RepliesShort) (h2 : s0.FramesFit)
    (h : ∀ k, s.LineFits k) : ∀ k, t.LineFits k := by
  intro k
  cases e with
  | same hl hi =>
    exact (h k).congr (by rw [hl]; exact fun q hq => .inl hq) (by rw [hl]; exact fun f hf => .inl hf)
      (by rw [hi]; exact fun l hl => .inr hl)
  | reply seg f hf =>
    obtain ⟨hq, hr⟩ := (State.line_handReply seg k f s).frames
    exact (h k).congr (fun q hm => (hq q hm).imp_right (fun he => by rw [he]; exact hf h1))
      (by rw [hr]; exact fun f hf => .inl hf) (by simpa using fun l hl => .inr hl)
  | notice seg f hf =>
    obtain ⟨hq, hr⟩ := (State.line_handNotice seg k f s).frames
    exact (h k).congr (fun q hm => (hq q hm).imp_right (fun he => by rw [he]; exact hf))
      (by rw [hr]; exact fun f hf => .inl hf) (by simpa using fun l hl => .inr hl)
  | ends seg =>
    refine (h k).congr (fun q hq => ?_) (fun f hf => .inl ?_) (fun l hl => ?_)
    · rw [State.line_endListing] at hq
      split at hq
      · obtain ⟨p, hp, rfl⟩ := List.mem_map.mp hq
        rw [QueuedFrame.frame_disown]
        exact .inr ((h k).queue p hp)
      · exact .inl hq
    · rw [State.line_endListing] at hf
      split at hf <;> exact hf
    · rw [State.listing_endListing] at hl
      split at hl
      · cases hl
      · exact .inr hl
  | send seg l _ _ he =>
    have hle := he h2
    obtain ⟨hjq, hjr, _, _⟩ := Controller.joinQueue_facts (s.line seg) ⟨.listing true, l.frame⟩
    rcases State.sendListing_cases seg l s with ⟨_, _, heq⟩ | heq
    · rw [heq]
      refine (h k).congr (fun q hq => ?_) (fun f hf => .inl ?_) (fun m hm => ?_)
      · rw [State.line_setLine] at hq
        split at hq
        · rename_i hk
          subst hk
          rw [hjq] at hq
          exact (List.mem_append.mp hq).imp id (fun h => by rw [List.mem_singleton.mp h]; exact Listing.frame_sendable hle)
        · exact .inl (by simpa using hq)
      · rw [State.line_setLine] at hf
        split at hf
        · rename_i hk; subst hk; rwa [hjr] at hf
        · simpa using hf
      · simp only [State.setLine_keeps, State.listing_setListing] at hm
        split at hm
        · cases hm; exact .inl hle
        · exact .inr hm
    · rw [heq]
      refine (h k).congr (fun q hq => .inl (by simpa using hq)) (fun f hf => .inl (by simpa using hf)) (fun m hm => ?_)
      rw [State.listing_setListing] at hm
      split at hm
      · cases hm; exact .inl hle
      · exact .inr hm
  | line seg c hq _ hr _ =>
    refine (h k).congr (fun q hm => .inl ?_) (fun f hm => ?_) (by simpa using fun l hl => .inr hl)
    · rw [State.line_setLine] at hm
      split at hm
      · rename_i hk; subst hk; rwa [hq] at hm
      · exact hm
    · rw [State.line_setLine] at hm
      split at hm
      · rename_i hk; subst hk; exact hr f hm
      · exact .inl hm
  | gone seg f q _ hq =>
    refine (h k).congr (fun p hm => .inl ?_) (fun g hm => .inl ?_) (fun l hl => .inl ?_)
    · rw [State.line_reportSendEnd, State.line_setLine] at hm
      split at hm
      · rename_i hk; subst hk; rw [hq]; exact List.mem_cons_of_mem _ hm
      · exact hm
    · rw [State.line_reportSendEnd, State.line_setLine] at hm
      split at hm
      · rename_i hk; subst hk; exact hm
      · exact hm
    · obtain ⟨m, hm, hb, _⟩ := State.listing_reportSendEnd hl
      rw [hb]
      exact (h k).entries m (by simpa using hm)
  | enable seg =>
    refine (h k).congr (fun q hm => .inl ?_) (fun f hm => .inl ?_) (by simpa using fun l hl => .inr hl)
    all_goals
      rw [State.line_setLine] at hm
      split at hm
      · rename_i hk
        subst hk
        unfold Controller.enable at hm
        split at hm
        · cases hm
        · exact hm
      · exact hm
  | disable seg =>
    refine (h k).congr (fun q hm => .inl ?_) (fun f hm => .inl ?_) (fun l hl => .inr ?_)
    · rw [State.line_disableLine] at hm
      split at hm
      · cases hm
      · exact hm
    · rw [State.line_disableLine] at hm
      split at hm
      · cases hm
      · exact hm
    · unfold State.disableLine at hl
      dsimp only at hl
      split at hl
      · exact hl
      · split at hl
        all_goals
          simp only [State.setFactor_keeps, State.listing_setListing, State.setLine_keeps] at hl
          split at hl
          · cases hl
          · exact hl
  | reset hl hi =>
    refine (h k).congr (fun q hq => ?_) (fun f hf => ?_) (fun l hl => ?_)
    · rw [hl] at hq; cases k <;> cases hq
    · rw [hl] at hf; cases k <;> cases hf
    · rw [hi] at hl; cases k <;> cases hl

end Sys2Proof.Machine
end

section
/-! PROOFS. One application: what it reaches before its end, how it ends, and what follows without changing a record. Every
request and every host command is shown to be one. -/

namespace Sys2Proof.Machine

/-! ### Applications -/

/-- The lines, the listing units, the port, the phase, the generation number and the change set are as they were. -/
structure State.SameUnits (s t : State) : Prop where
  line : ∀ k, t.line k = s.line k
  listing : ∀ k, t.listing k = s.listing k
  port : t.port = s.port
  phase : t.phase = s.phase
  generation : t.generation = s.generation
  marks : t.marks = s.marks

theorem State.SameUnits.refl {s : State} : s.SameUnits s := by constructor <;> simp

theorem State.SameUnits.trans {s t u : State} (h : s.SameUnits t) (k : t.SameUnits u) : s.SameUnits u := by
  constructor <;> simp [h.line, h.listing, h.port, h.phase, h.generation, h.marks, k.line, k.listing, k.port, k.phase,
    k.generation, k.marks]

/-- What is said of the bindings to which an application grants a lease: one at most, and where the record is otherwise as it
was the lease is fresh (R25). -/
def GrantsLawfully (s x : State) (g : List Addr) : Prop :=
  g.length ≤ 1 ∧ ∀ a ∈ g, (s.binding a).state = (x.binding a).state →
    ∃ h n v p, x.binding a = .bound h (.timed n ⟨n, false⟩) v p

/-- `x` is what an application reaches from `s` before its end, in a chain of edits that began at `s0`. -/
structure Reaches (tame : Bool) (s0 s x : State) (g : List Addr) : Prop where
  edits : Edits tame s0.RepliesShort s x
  lines : LineEdits s0 s x
  listing : ∀ k l, x.listing k = some l → s.listing k = some l ∧ (x.phase.isStopped = true → s.phase.isStopped = true)
  port : x.port = s.port
  generation : x.generation = s.generation
  marks : x.marks = s.marks
  granted : GrantsLawfully s x g

/-- What follows the end of an application without changing a record: a reply is cached, frames are handed over, a listing is
started, the port takes its reply. -/
structure Follows (tame : Bool) (s0 u t : State) : Prop where
  edits : Edits tame s0.RepliesShort u t
  lines : LineEdits s0 u t
  record : ∀ a, (t.binding a).record = (u.binding a).record
  lease : ∀ a h l v p, u.binding a = .bound h l v p → ∃ q, t.binding a = .bound h l v q
  group : ∀ g, t.group g = u.group g
  generation : t.generation = u.generation
  marks : t.marks = u.marks
  requesters : u.RequestersStand → t.RequestersStand
  port : s0.RepliesShort → u.port.state.fits = true → t.port.state.fits = true

/-- One application leads from `s` to `t`. -/
def Applies (tame : Bool) (s0 s t : State) : Prop :=
  ∃ x g, Reaches tame s0 s x g ∧ Follows tame s0 (commit s g x) t

theorem Follows.still {tame : Bool} {s0 u : State} : Follows tame s0 u u :=
  ⟨.refl, .refl, fun _ => rfl, fun _ _ _ _ p h => ⟨p, h⟩, fun _ => rfl, rfl, rfl, id, fun _ => id⟩

theorem Follows.trans {tame : Bool} {s0 u t w : State} (h : Follows tame s0 u t) (k : Follows tame s0 t w) :
    Follows tame s0 u w where
  edits := Edits.trans h.edits k.edits
  lines := h.lines.trans k.lines
  record a := (k.record a).trans (h.record a)
  lease a o l v p hb := by
    obtain ⟨q, hq⟩ := h.lease a o l v p hb
    exact k.lease a o l v q hq
  group g := (k.group g).trans (h.group g)
  generation := k.generation.trans h.generation
  marks := k.marks.trans h.marks
  requesters := k.requesters ∘ h.requesters
  port hs := k.port hs ∘ h.port hs

/-- Steps that leave the directory and the port, and keep the requesters of the listings. -/
theorem Follows.of_lines {tame : Bool} {s0 u t : State} (hd : u.SameDirectory t) (hl : LineEdits s0 u t)
    (hg : t.generation = u.generation) (hm : t.marks = u.marks)
    (hr : ∀ k l, t.listing k = some l → ∃ m, u.listing k = some m ∧ l.requester = m.requester)
    (hp : s0.RepliesShort → u.port.state.fits = true → t.port.state.fits = true) : Follows tame s0 u t where
  edits := .one (.same hd)
  lines := hl
  record a := by rw [hd.binding]
  lease a _ _ _ p hb := ⟨p, (hd.binding a).trans hb⟩
  group := hd.group
  generation := hg
  marks := hm
  requesters hs k l hl := by
    obtain ⟨m, hm, heq⟩ := hr k l hl
    have := hs k m hm
    rwa [hd.phase, hd.binding, heq]
  port := hp

theorem Follows.handReply {tame : Bool} {s0 u : State} (seg : Segment) (f : Frame) (hf : s0.RepliesShort → f.sendable) :
    Follows tame s0 u (u.handReply seg f) :=
  .of_lines (.handReply seg f u) (.single (.reply seg f hf)) (by simp) (by simp)
    (fun k l hl => ⟨l, by simpa using hl, rfl⟩) (by simp)

theorem Follows.cacheReply {tame : Bool} {s0 u : State} (a : Addr) (r : Replay)
    (hr : s0.RepliesShort → r.rest.length ≤ 39) : Follows tame s0 u (u.cacheReply a r) where
  edits := .one (.cache a r hr)
  lines := .single (.same (by simp) (by simp))
  record b := by simp
  lease b o l v p hb := by
    by_cases hab : b = a
    · subst hab; exact ⟨some r, by rw [State.cacheReply_binding, hb]⟩
    · exact ⟨p, by simpa [hab] using hb⟩
  group := by simp
  generation := by simp
  marks := by simp
  requesters hs k l hl := by
    have := hs k l (by simpa using hl)
    simpa using this
  port _ hp := by simpa using hp

/-! ### An application that moves records alone -/

theorem Reaches.of_units {tame : Bool} {s0 s x : State} {g : List Addr} (he : Edits tame s0.RepliesShort s x)
    (hu : s.SameUnits x) (hg : GrantsLawfully s x g) : Reaches tame s0 s x g where
  edits := he
  lines := .single (.same hu.line hu.listing)
  listing k l hl := ⟨by rw [← hu.listing]; exact hl, by rw [hu.phase]; exact id⟩
  port := hu.port
  generation := hu.generation
  marks := hu.marks
  granted := hg

theorem GrantsLawfully.none (s x : State) : GrantsLawfully s x [] := ⟨Nat.zero_le _, nofun⟩

theorem GrantsLawfully.moved {s x : State} {a : Addr} (h : (s.binding a).state ≠ (x.binding a).state) :
    GrantsLawfully s x [a] :=
  ⟨Nat.le_refl _, fun c hc he => by rw [List.mem_singleton] at hc; subst hc; exact absurd he h⟩

theorem GrantsLawfully.fresh {s x : State} {a : Addr} {h : Holder} {n : Nat} {v : Bool} {p : Option Replay}
    (hb : x.binding a = .bound h (Lease.grant n) v p) : GrantsLawfully s x [a] :=
  ⟨Nat.le_refl _, fun c hc _ => by rw [List.mem_singleton] at hc; subst hc; exact ⟨h, n, v, p, hb⟩⟩

theorem Reaches.same {tame : Bool} {s0 s : State} : Reaches tame s0 s s [] := .of_units .refl .refl (.none s s)

/-- Steps that change no record are an application that reaches nothing. -/
theorem Applies.of_follows {tame : Bool} {s0 s t : State} (h : Follows tame s0 s t) : Applies tame s0 s t :=
  ⟨s, [], .same, by rwa [commit_self]⟩

theorem Applies.still {tame : Bool} {s0 s : State} : Applies tame s0 s s := .of_follows .still

/-- An application and what follows it. -/
theorem Applies.then {tame : Bool} {s0 s t u : State} (h : Applies tame s0 s t) (k : Follows tame s0 t u) :
    Applies tame s0 s u := by
  obtain ⟨x, g, hr, hf⟩ := h
  exact ⟨x, g, hr, hf.trans k⟩

theorem commit_listing {s x : State} {g : List Addr} {k : Segment} {l : Listing} (h : (commit s g x).listing k = some l) :
    x.listing k = some l ∧ ((s.binding l.requester).isBound = true → (x.binding l.requester).isBound = true) := by
  have left : ∀ (seg k : Segment) (t : State) {l : Listing}, (t.abandonLeft s seg).listing k = some l →
      t.listing k = some l ∧ (k = seg → (s.binding l.requester).isBound = true → (t.binding l.requester).isBound = true) := by
    intro seg k t l h
    unfold State.abandonLeft at h
    split at h
    · rename_i hn
      exact ⟨h, fun hk => by subst hk; rw [hn] at h; cases h⟩
    · rename_i m hm
      split at h
      · rw [State.listing_endListing] at h
        split at h
        · cases h
        · exact ⟨h, fun hk => by contradiction⟩
      · rename_i hb
        refine ⟨h, fun hk hs => ?_⟩
        subst hk
        rw [hm] at h; cases h
        simpa [hs] using hb
  unfold commit at h
  obtain ⟨hB, hBb⟩ := left .b k _ h
  obtain ⟨hA, hAb⟩ := left .a k _ hB
  refine ⟨by simpa using hA, ?_⟩
  cases k
  · simpa using hAb rfl
  · simpa using hBb rfl

theorem LineEdits.commit {s0 s x : State} (g : List Addr) : LineEdits s0 x (commit s g x) := by
  have left : ∀ (seg : Segment) (t : State), LineEdits s0 t (t.abandonLeft s seg) := by
    intro seg t
    unfold State.abandonLeft
    split
    · exact .refl
    · split
      · exact .single (.ends seg)
      · exact .refl
  unfold Machine.commit
  exact Chain.trans (.single (.same (by simp) (by simp))) ((left .a _).trans (left .b _))

theorem Applies.edits {tame : Bool} {s0 s t : State} (h : Applies tame s0 s t) : Edits tame s0.RepliesShort s t := by
  obtain ⟨x, g, hr, hf⟩ := h
  exact Edits.trans (hr.edits.then_same (.commit s g x)) hf.edits

theorem Applies.lines {tame : Bool} {s0 s t : State} (h : Applies tame s0 s t) : LineEdits s0 s t := by
  obtain ⟨x, g, hr, hf⟩ := h
  exact (hr.lines.trans (LineEdits.commit g)).trans hf.lines

theorem Applies.requesters {tame : Bool} {s0 s t : State} (h : Applies tame s0 s t) (hs : s.RequestersStand) :
    t.RequestersStand := by
  obtain ⟨x, g, hr, hf⟩ := h
  refine hf.requesters (fun k l hl => ?_)
  obtain ⟨hx, hb⟩ := commit_listing hl
  obtain ⟨hsl, hp⟩ := hr.listing k l hx
  obtain ⟨hph, hbound⟩ := hs k l hsl
  refine ⟨?_, by simpa using hb hbound⟩
  cases hst : x.phase.isStopped with
  | false => simpa using hst
  | true => rw [hp hst] at hph; cases hph

theorem Applies.port {tame : Bool} {s0 s t : State} (h : Applies tame s0 s t) (h0 : s0.RepliesShort)
    (hs : s.port.state.fits = true) : t.port.state.fits = true := by
  obtain ⟨x, g, hr, hf⟩ := h
  exact hf.port h0 (by simpa [hr.port] using hs)

/-! ### Answers -/

/-- An execution of a request that is an application with a reply short enough to be cached. -/
structure Answer.Sound (tame : Bool) (s0 s : State) (r : Answer) : Prop where
  reaches : Reaches tame s0 s r.state r.granted
  short : s0.RepliesShort → r.rest.length ≤ 39

/-- An execution of a host command that is an application with a reply that fits the port. -/
structure HostAnswer.Sound (tame : Bool) (s : State) (r : HostAnswer) : Prop where
  reaches : Reaches tame s s r.state r.granted
  short : s.RepliesShort → r.data.length ≤ 61

theorem replyTo_sendable {f : Frame} {status : Status} {rest : List Byte} (h : rest.length ≤ 39) :
    (replyTo f status rest).sendable := ⟨rfl, Nat.succ_le_succ h⟩

theorem length_badreqRest (f : Frame) : (badreqRest f).length ≤ 39 := by
  unfold badreqRest
  split
  · split
    · exact Nat.le_trans (List.length_take_le 6 f.body) (by decide)
    · exact Nat.zero_le _
  · exact Nat.zero_le _

theorem Applies.deliver {tame : Bool} {s0 s : State} {seg : Segment} {f : Frame} {r : Answer} (h : r.Sound tame s0 s) :
    Applies tame s0 s (s.deliver seg f r) :=
  ⟨r.state, r.granted, h.reaches, .handReply seg _ (fun hs => replyTo_sendable (h.short hs))⟩

theorem Applies.deliverCached {tame : Bool} {s0 s : State} {seg : Segment} {f : Frame} {a : Addr} {r : Answer}
    (h : r.Sound tame s0 s) : Applies tame s0 s (s.deliverCached seg f a r) :=
  ⟨r.state, r.granted, h.reaches,
    (Follows.cacheReply a _ h.short).trans (.handReply seg _ (fun hs => replyTo_sendable (h.short hs)))⟩

theorem Follows.turnAway {tame : Bool} {s0 s : State} {seg : Segment} {f : Frame} {status : Status} {rest : List Byte}
    (h : rest.length ≤ 39) : Follows tame s0 s (s.turnAway seg f status rest) :=
  .handReply seg _ (fun _ => replyTo_sendable h)

theorem Applies.turnAway {tame : Bool} {s0 s : State} (seg : Segment) (f : Frame) (status : Status) :
    Applies tame s0 s (s.turnAway seg f status (badreqRest f)) := .of_follows (.turnAway (length_badreqRest f))

theorem Applies.unknown {tame : Bool} {s0 s : State} (seg : Segment) (f : Frame) (status : Status) :
    Applies tame s0 s (s.turnAway seg f status []) := .of_follows (.turnAway (Nat.zero_le _))

/-! ### Serving a frame -/

/-- `s` is `s0` with the slot of the frame freed. -/
structure State.Took (s0 s : State) (seg : Segment) : Prop where
  directory : s0.SameDirectory s
  listing : ∀ k, s.listing k = s0.listing k
  running : s.phase.isStopped = false
  enabled : s0.LinesLawful → s.enabled seg = true

theorem State.Took.short {s0 s : State} {seg : Segment} (h : s0.Took s seg) (hs : s0.RepliesShort) : s.RepliesShort := by
  refine ⟨fun g => by rw [h.directory.group]; exact hs.1 g, fun a => by rw [h.directory.binding]; exact hs.2.1 a, ?_⟩
  rw [h.directory.admission]
  exact hs.2.2

theorem Applies.takeFrame {tame : Bool} {s : State} {ok : Byte → Bool} {seg : Segment} {serve : Frame → State → State}
    (h : ∀ f t, s.Took t seg → Applies tame s t (serve f t)) : Applies tame s s (s.takeFrame ok seg serve) := by
  unfold State.takeFrame
  split
  · exact .still
  · split
    · exact .still
    · rename_i f rest hq
      split
      · dsimp only
        have hd := State.SameDirectory.setLine seg { s.line seg with ready := rest } s
        have hlines : LineEdits s s (s.setLine seg { s.line seg with ready := rest }) := by
          refine .single (.line seg _ rfl rfl (fun f hf => .inl ?_) (fun hl => ⟨?_, hl.2.1, hl.2.2.1, ?_⟩))
          · rw [hq]; exact List.mem_cons_of_mem _ hf
          · have := hl.1
            rw [hq] at this
            simp only [List.length_cons] at this
            exact Nat.le_of_succ_le (by simpa [Nat.succ_add] using this)
          · have := hl.2.2.2
            unfold Controller.stateLawful at this ⊢
            cases hline : (s.line seg).line <;> simp_all
        split
        · exact .of_follows (.of_lines hd hlines (by simp) (by simp) (fun k l hl => ⟨l, by simpa using hl, rfl⟩) (by simp))
        · rename_i hrun
          have htook : s.Took (s.setLine seg { s.line seg with ready := rest }) seg := by
            refine ⟨hd, by simp, by simpa using hrun, fun hl => ?_⟩
            have := (hl seg (by cases seg <;> simp)).2.2.2
            unfold Controller.stateLawful at this
            simp only [State.enabled, State.line_setLine_self]
            cases hline : (s.line seg).line <;> simp_all [LineState.isDisabled]
          obtain ⟨x, g, hr, hf⟩ := h f _ htook
          have hcommit : commit s g x = commit (s.setLine seg { s.line seg with ready := rest }) g x := by
            have hc : changedRecords s x g = changedRecords (s.setLine seg { s.line seg with ready := rest }) x g :=
              changedRecords_congr (by simp) (by simp) (fun _ => rfl) (fun _ => rfl)
            unfold commit State.abandonLeft
            rw [hc]
            simp only [State.setLine_keeps]
          refine ⟨x, g, ⟨Edits.trans (.one (.same hd)) hr.edits, hlines.trans hr.lines, ?_, ?_, ?_, ?_, ?_⟩, by rwa [hcommit]⟩
          · simpa using hr.listing
          · simpa using hr.port
          · simpa using hr.generation
          · simpa using hr.marks
          · simpa [GrantsLawfully] using hr.granted
      · exact .still

theorem Applies.serveUnaddressed {tame : Bool} {s0 s : State} {α : Type} {parse : List Byte → Option α}
    {run : Segment → α → State → Answer} {seg : Segment} {f : Frame}
    (h : ∀ x, parse f.body = some x → (run seg x s).Sound tame s0 s) :
    Applies tame s0 s (s.serveUnaddressed parse run seg f) := by
  unfold State.serveUnaddressed
  split
  · split
    · exact .turnAway seg f _
    · rename_i x hx; exact .deliver (h x hx)
  · exact .turnAway seg f _

theorem retryReply_sendable {s : State} {a : Addr} {f : Frame} {r : Replay} (h : s.retryOf a f = some r)
    (hf : (s.binding a).fits = true) : (retryReply f r).sendable := by
  have hr : (s.binding a).replay? = some r := by
    unfold State.retryOf at h
    split at h
    · cases h
    · rename_i q hq
      split at h
      · cases h; exact hq
      · cases h
  have hlen : r.rest.length ≤ 39 := by
    cases hb : s.binding a <;> simp_all [Binding.replay?, Binding.fits]
  exact ⟨rfl, Nat.succ_le_succ hlen⟩

theorem Applies.serveAddressed {tame : Bool} {s0 s : State} {α : Type} {parse : List Byte → Option α}
    {run : Segment → Addr → α → State → Answer} {after : Segment → Addr → α → State → State} {a : Addr} {seg : Segment}
    {f : Frame} (hs : s0.Took s seg) (h : ∀ x, parse f.body = some x → (run seg a x s).Sound tame s0 s)
    (ha : ∀ x, parse f.body = some x → (run seg a x s).status = .ok →
      Follows tame s0 (s.deliverCached seg f a (run seg a x s)) (after seg a x (s.deliverCached seg f a (run seg a x s)))) :
    Applies tame s0 s (s.serveAddressed parse run after a seg f) := by
  cases hb : (s.binding a).isBound with
  | false => rw [State.serveAddressed_unbound hb]; exact .unknown seg f _
  | true =>
    cases hr : s.retryOf a f with
    | some r =>
      rw [State.serveAddressed_retry hb hr]
      exact .of_follows (.handReply seg _ (fun h0 => retryReply_sendable hr ((hs.short h0).2.1 a)))
    | none =>
      rw [State.serveAddressed_new hb hr]
      cases hx : parse f.body with
      | none => exact .deliverCached ⟨.same, fun _ => length_badreqRest f⟩
      | some x =>
        dsimp only
        split
        · rename_i hok; exact (Applies.deliverCached (h x hx)).then (ha x hx hok)
        · exact .deliverCached (h x hx)

theorem Applies.serveBound {tame : Bool} {s0 s : State} {α : Type} {parse : List Byte → Option α}
    {run : Segment → Addr → α → State → Answer} {seg : Segment} {f : Frame} (hs : s0.Took s seg)
    (h : ∀ a x, parse f.body = some x → (run seg a x s).Sound tame s0 s) :
    Applies tame s0 s (s.serveBound parse run seg f) := by
  unfold State.serveBound
  split
  · exact .turnAway seg f _
  · exact .serveAddressed hs (h _) (fun _ _ _ => .still)

theorem Applies.serveEither {tame : Bool} {s0 s : State} {α : Type} {parse : List Byte → Option α}
    {run : α → State → Answer} {seg : Segment} {f : Frame} (hs : s0.Took s seg)
    (h : ∀ x, parse f.body = some x → (run x s).Sound tame s0 s) :
    Applies tame s0 s (s.serveEither parse run seg f) := by
  unfold State.serveEither
  split
  · split
    · exact .turnAway seg f _
    · rename_i x hx; exact .deliver (h x hx)
  · exact .serveBound hs (fun _ => h)

theorem Applies.serveClaimant {tame : Bool} {s0 s : State} {α : Type} {parse : List Byte → Option α}
    {run : Segment → Addr → α → State → Answer} {seg : Segment} {f : Frame}
    (h : ∀ a x, parse f.body = some x → (run seg a x s).Sound tame s0 s) :
    Applies tame s0 s (s.serveClaimant parse run seg f) := by
  unfold State.serveClaimant
  split
  · exact .turnAway seg f _
  · split
    · exact .turnAway seg f _
    · rename_i x hx; exact .deliver (h _ x hx)

/-! ### Host commands -/

theorem Applies.complete {tame : Bool} {s : State} {r : HostAnswer} (h : r.Sound tame s) : Applies tame s s (s.complete r) := by
  refine ⟨r.state, r.granted, h.reaches, ?_⟩
  unfold State.complete
  dsimp only
  refine .of_lines (.setPort _ _) (.single (.same (by simp) (by simp))) (by simp) (by simp)
    (fun k l hl => ⟨l, by simpa using hl, rfl⟩) (fun hs _ => ?_)
  simpa [PortState.fits] using h.short hs

theorem Applies.runCommand {tame : Bool} {s : State} {ok : Byte → Bool} {run : List Byte → State → HostAnswer}
    (h : ∀ ps, (run ps s).Sound tame s) : Applies tame s s (s.runCommand ok run) := by
  unfold State.runCommand
  split
  · exact .still
  · split
    · split
      · exact .complete (h _)
      · exact .still
    all_goals exact .still

theorem HostAnswer.Sound.failed {tame : Bool} {s : State} (status : HostStatus) : (failed status s).Sound tame s :=
  ⟨.same, fun _ => Nat.zero_le _⟩

/-- A command that only reads. -/
theorem HostAnswer.Sound.reads {tame : Bool} {s : State} {status : HostStatus} {data : List Byte}
    (h : s.RepliesShort → data.length ≤ 61) :
    ({ state := s, status := status, data := data } : HostAnswer).Sound tame s := ⟨.same, h⟩

theorem HostAnswer.Sound.withParams {tame : Bool} {s : State} {α : Type} {parse : List Byte → Option α}
    {run : α → State → HostAnswer} (h : ∀ ps x, parse ps = some x → (run x s).Sound tame s) (ps : List Byte) :
    (withParams parse run ps s).Sound tame s := by
  unfold Machine.withParams
  split
  · rename_i x hx; exact h ps x hx
  · exact .failed _

end Sys2Proof.Machine
end

section
/-! PROOFS. Every request is an application with a reply short enough to be cached. -/

namespace Sys2Proof.Machine

/-! ### The units are left as they were -/

theorem State.SameUnits.setBinding (a : Addr) (b : Binding) (s : State) : s.SameUnits (s.setBinding a b) := by
  constructor <;> simp

theorem State.SameUnits.enterBound (h : Holder) (l : Lease) (v : Bool) (a : Addr) (s : State) :
    s.SameUnits (s.enterBound h l v a) := by constructor <;> simp

theorem State.SameUnits.giveUp (h : Holder) (l : Lease) (v n : Bool) (a : Addr) (s : State) :
    s.SameUnits (s.giveUp h l v n a) := by constructor <;> simp

theorem State.SameUnits.expel (h : Holder) (l : Lease) (v : Bool) (a : Addr) (s : State) :
    s.SameUnits (s.expel h l v a) := by constructor <;> simp

theorem State.SameUnits.goFree (p : FreePlace) (a : Addr) (s : State) : s.SameUnits (s.goFree p a) := by
  constructor <;> simp

theorem State.SameUnits.goReserved (r : Reservation) (a : Addr) (s : State) : s.SameUnits (s.goReserved r a) := by
  constructor <;> simp

theorem State.SameUnits.revokeOffer (h : Holder) (o : Origin) (a : Addr) (s : State) :
    s.SameUnits (s.revokeOffer h o a) := by constructor <;> simp

theorem State.SameUnits.returnOffer (h : Holder) (o : Origin) (p : FreePlace) (n : Bool) (a : Addr) (s : State) :
    s.SameUnits (s.returnOffer h o p n a) := by constructor <;> simp

theorem State.SameUnits.makeAnonymous (a : Addr) (s : State) : s.SameUnits (s.makeAnonymous a) := by
  constructor <;> simp

theorem State.SameUnits.makeOffer (h : Holder) (o : Origin) (a : Addr) (s : State) : s.SameUnits (s.makeOffer h o a) := by
  constructor <;> simp

theorem State.SameUnits.offerNewcomer (h : Holder) (a : Addr) (s : State) : s.SameUnits (s.offerNewcomer h a) := by
  constructor <;> simp

theorem State.SameUnits.keepIncumbent (h : Holder) (l : Lease) (v : Bool) (a : Addr) (s : State) :
    s.SameUnits (s.keepIncumbent h l v a) := by constructor <;> simp

theorem State.SameUnits.keepChallenger (c : Challenger) (l : Lease) (v : Bool) (a : Addr) (s : State) :
    s.SameUnits (s.keepChallenger c l v a) := by constructor <;> simp

theorem State.SameUnits.removeEntry (x : Identity) (s : State) : s.SameUnits (s.removeEntry x) := by
  constructor <;> simp

theorem State.SameUnits.addBarred (x : Identity) (s : State) : s.SameUnits (s.addBarred x) := by
  constructor <;> simp

theorem State.SameUnits.setFactor (f : Factor) (s : State) : s.SameUnits (s.setFactor f) := by constructor <;> simp

theorem State.SameUnits.addEntry (h : Holder) (s : State) : s.SameUnits (s.addEntry h) := by
  constructor <;> intros <;> rfl

theorem State.SameUnits.moveEntry (x : Identity) (seg : Segment) (s : State) : s.SameUnits (s.moveEntry x seg) := by
  constructor <;> intros <;> rfl

theorem State.SameUnits.appendMember (g : GroupNo) (n : Nat) (p : JoinPolicy) (m : List Addr) (a : Addr) (s : State) :
    s.SameUnits (s.appendMember g n p m a) := by constructor <;> simp

theorem State.SameUnits.removeMember (g : GroupNo) (n : Nat) (p : JoinPolicy) (m : List Addr) (a : Addr) (s : State) :
    s.SameUnits (s.removeMember g n p m a) := by constructor <;> simp

theorem State.SameUnits.settleClaimant (x : Identity) (a : Addr) (s : State) : s.SameUnits (s.settleClaimant x a) := by
  refine State.SameUnits.trans ?_ (.removeEntry x _)
  unfold State.forgetElsewhere
  split
  · exact .makeAnonymous _ s
  · exact .refl

/-! ### ASK -/

theorem State.SameUnits.continueAsk (h : Holder) (s : State) : s.SameUnits (continueAsk h s).state := by
  unfold Machine.continueAsk
  split
  · split
    · exact .refl
    · exact .makeOffer h _ _ s
  · split
    · exact .refl
    · unfold superviseAsk
      split
      · exact .moveEntry _ _ s
      · split
        · exact (State.SameUnits.addEntry h s).trans (.setFactor _ _)
        · exact .refl
    · unfold openAsk
      split
      · exact .refl
      · split
        · exact .offerNewcomer h _ s
        · exact .setFactor _ s

theorem State.SameUnits.withdrawChallenger (a : Addr) (s : State) : s.SameUnits (s.withdrawChallenger a) := by
  unfold State.withdrawChallenger
  split
  · exact .setBinding a _ s
  all_goals exact .refl

theorem State.SameUnits.withdrawIncumbent (a : Addr) (s : State) : s.SameUnits (s.withdrawIncumbent a) := by
  unfold State.withdrawIncumbent
  split
  · exact .keepChallenger _ _ _ a s
  all_goals exact .refl

theorem length_identityBytes (x : Identity) : (identityBytes x).length = 6 := rfl

theorem length_le16 (n : Nat) : (le16 n).length = 2 := rfl

theorem length_offerFields (x : Identity) (a : Addr) (l : Lease) (n : Nat) : (offerFields x a l n).length = 10 := rfl

/-- The replies to an ASK carry an offer at most; no ASK grants a lease. -/
structure Answer.OfAsk (r : Answer) : Prop where
  rest : r.rest.length ≤ 10
  granted : r.granted = []

theorem Answer.OfAsk.wait (x : Identity) (n : Nat) (s : State) : (waitAnswer x n s).OfAsk := ⟨by simp [waitAnswer, length_identityBytes], rfl⟩

theorem Answer.OfAsk.offer (x : Identity) (a : Addr) (o : Origin) (s : State) : (offerMade x a o s).OfAsk :=
  ⟨by simp [offerMade, length_offerFields], rfl⟩

theorem Answer.OfAsk.continueAsk (h : Holder) (s : State) : (continueAsk h s).OfAsk := by
  unfold Machine.continueAsk
  split
  · split
    · exact .wait _ _ s
    · exact .offer _ _ _ _
  · split
    · exact ⟨by simp [length_identityBytes], rfl⟩
    · unfold superviseAsk
      split
      · exact .wait _ _ _
      · split <;> exact .wait _ _ _
    · unfold openAsk
      split
      · exact .wait _ _ s
      · split
        · exact .offer _ _ _ _
        · exact ⟨by simp [length_identityBytes], rfl⟩

theorem alreadyAnswer_facts {s : State} {x : Identity} {a : Addr} {seg : Segment} {r : Answer}
    (h : alreadyAnswer x a seg s = some r) : s.SameUnits r.state ∧ r.OfAsk := by
  unfold alreadyAnswer at h
  split at h
  · cases h
    exact ⟨.setBinding a _ s, by simp [length_identityBytes, length_le16], rfl⟩
  all_goals cases h

theorem repeatAnswer_facts {s : State} {x : Identity} {a : Addr} {seg : Segment} {r : Answer}
    (h : repeatAnswer x a seg s = some r) : s.SameUnits r.state ∧ r.OfAsk := by
  unfold repeatAnswer at h
  split at h
  · cases h
    exact ⟨.setBinding a _ s, by simp [length_offerFields], rfl⟩
  all_goals cases h

theorem decideAsk_facts (h : Holder) (s : State) : s.SameUnits (decideAsk h s).state ∧ (decideAsk h s).OfAsk := by
  unfold decideAsk
  dsimp only
  split
  · rename_i r hr
    obtain ⟨a, _, ha⟩ := Option.bind_eq_some_iff.mp hr
    exact alreadyAnswer_facts ha
  · split
    · exact ⟨(State.SameUnits.withdrawChallenger _ s).trans (.continueAsk h _), .continueAsk h _⟩
    · split
      · exact ⟨(State.SameUnits.withdrawIncumbent _ s).trans (.continueAsk h _), .continueAsk h _⟩
      · split
        · rename_i r hr
          obtain ⟨a, _, ha⟩ := Option.bind_eq_some_iff.mp hr
          exact repeatAnswer_facts ha
        · exact ⟨.continueAsk h s, .continueAsk h s⟩

theorem runAsk_facts (seg : Segment) (b : Identity × Byte × Tag) (s : State) :
    s.SameUnits (runAsk seg b s).state ∧ (runAsk seg b s).OfAsk := by
  unfold runAsk
  dsimp only
  split
  · exact ⟨.refl, .wait _ _ s⟩
  all_goals
    split
    · exact ⟨.refl, by simp [length_identityBytes], rfl⟩
    · exact decideAsk_facts _ s

/-- A tag that is read is at most 8 bytes long (R34). -/
theorem tagOf?_length {bs : List Byte} {t : Tag} (h : tagOf? bs = some t) : t.length ≤ 8 := by
  unfold tagOf? at h
  split at h
  · cases h
  · split at h
    · rename_i hl; cases h; omega
    · cases h

theorem askBody?_tag {bs : List Byte} {b : Identity × Byte × Tag} (h : askBody? bs = some b) : b.2.2.length ≤ 8 := by
  unfold askBody? at h
  split at h
  · split at h
    · rename_i t ht
      split at h
      · cases h
      · cases h; exact tagOf?_length ht
    · cases h
  · cases h

theorem runAsk_sound {s0 s : State} (seg : Segment) {b : Identity × Byte × Tag} (ht : b.2.2.length ≤ 8) :
    (runAsk seg b s).Sound false s0 s := by
  obtain ⟨hu, hrest, hg⟩ := runAsk_facts seg b s
  exact ⟨.of_units (.runAsk ht) hu (by rw [hg]; exact .none _ _), fun _ => by omega⟩

/-! ### TAKE and CLAIM -/

theorem runTake_sound {tame : Bool} {s0 s : State} (seg : Segment) (b : Identity × Addr) :
    (runTake seg b s).Sound tame s0 s := by
  have he := Edits.runTake (tame := tame) (short := s0.RepliesShort) seg b s
  unfold runTake at *
  dsimp only at *
  split
  · exact ⟨.same, by simp [staleAnswer, length_identityBytes]⟩
  · rename_i hp
    rw [if_neg hp] at he
    split
    · rename_i h o r hb
      simp only [hb] at he
      split
      · rename_i hi
        rw [if_pos hi] at he
        exact ⟨.of_units he (.enterBound _ _ _ _ s) (.moved (by simp [hb, Binding.state])),
          by simp [takeFields, length_identityBytes, length_le16]⟩
      · exact ⟨.same, by simp [staleAnswer, length_identityBytes]⟩
    · rename_i h l v r hb
      simp only [hb] at he
      split
      · rename_i hi
        rw [if_pos hi] at he
        exact ⟨.of_units he (.setBinding _ _ s) (.none _ _), by simp [takeFields, length_identityBytes, length_le16]⟩
      · exact ⟨.same, by simp [staleAnswer, length_identityBytes]⟩
    all_goals exact ⟨.same, by simp [staleAnswer, length_identityBytes]⟩

/-- What settles the claimant elsewhere leaves the record of the address claimed (R116). -/
theorem State.binding_settleClaimant (x : Identity) (a : Addr) (s : State) :
    (s.settleClaimant x a).binding a = s.binding a := by
  unfold State.settleClaimant State.forgetElsewhere
  split
  · rename_i b hb
    have hne : a ≠ b := by
      have := List.find?_some (p := fun b => decide (b ≠ a) && isHeldBy x (s.binding b)) hb
      simp only [Bool.and_eq_true, decide_eq_true_eq] at this
      exact fun h => this.1 h.symm
    simp [hne]
  · simp

theorem claimBinds_grants {s : State} {h : Holder} {l : Lease} {v : Bool} {status : Status} {a : Addr}
    (hb : (s.binding a).state ≠ .bound) :
    GrantsLawfully s (claimBinds h l v status a s).state (claimBinds h l v status a s).granted := by
  refine .moved ?_
  simpa [claimBinds, State.binding_settleClaimant, Binding.state] using hb

/-- What a CLAIM comes to besides its edits. -/
structure Answer.OfClaim (s : State) (r : Answer) : Prop where
  units : s.SameUnits r.state
  rest : r.rest.length ≤ 8
  granted : GrantsLawfully s r.state r.granted

theorem Answer.OfClaim.tells (x : Identity) (status : Status) (s : State) : (claimAnswer x status s).OfClaim s :=
  ⟨.refl, by simp [claimAnswer, length_identityBytes], .none s s⟩

theorem Answer.OfClaim.binds {s : State} {h : Holder} {l : Lease} {v : Bool} {status : Status} {a : Addr}
    (hb : (s.binding a).state ≠ .bound) : (claimBinds h l v status a s).OfClaim s :=
  ⟨(State.SameUnits.enterBound h l v a s).trans (.settleClaimant _ a _),
    by simp [claimBinds, length_identityBytes, length_le16], claimBinds_grants hb⟩

theorem Answer.OfClaim.refreshes (h : Holder) (l : Lease) (v : Bool) (a : Addr) (s : State) :
    (claimRefreshes h l v a s).OfClaim s := by
  cases l with
  | timed g r =>
    refine ⟨(State.SameUnits.setBinding a _ s).trans (.settleClaimant _ a _), ?_, ?_⟩
    · simp [claimRefreshes, length_identityBytes, length_le16]
    · exact .fresh (h := h) (n := s.policy.defaultLease) (v := v) (p := none)
        (by simp [claimRefreshes, State.binding_settleClaimant])
  | permanent =>
    exact ⟨(State.SameUnits.setBinding a _ s).trans (.settleClaimant _ a _),
      by simp [claimRefreshes, length_identityBytes, length_le16], .none _ _⟩

theorem Answer.OfClaim.contests (h : Holder) (l : Lease) (v : Bool) (r : Option Replay) (c : Challenger) (a : Addr)
    (s : State) : (claimContests h l v r c a s).OfClaim s :=
  ⟨((State.SameUnits.setBinding a _ s).trans (.settleClaimant _ a _)).trans (.setFactor _ _),
    by simp [claimContests, claimAnswer, length_identityBytes], .none _ _⟩

theorem runClaim_facts (seg : Segment) (a : Addr) (b : Identity × Byte) (s : State) : (runClaim seg a b s).OfClaim s := by
  unfold runClaim
  dsimp only
  split
  · exact .tells _ _ s
  · split
    · exact ⟨.refl, by simp [length_identityBytes], .none s s⟩
    · unfold claimAt
      split
      · rename_i hb; split
        · exact .binds (by simp [hb, Binding.state])
        · exact .tells _ _ s
      · rename_i hb; split
        · exact .binds (by simp [hb, Binding.state])
        · exact .tells _ _ s
      · rename_i hb; split
        · exact .binds (by simp [hb, Binding.state])
        · exact .tells _ _ s
      · split
        · exact .refreshes _ _ _ a s
        · exact .contests _ _ _ _ _ a s
      · rename_i hb; split
        · exact .binds (by simp [hb, Binding.state])
        · exact .tells _ _ s
      · exact .tells _ _ s
      · split <;> exact .tells _ _ s

theorem runClaim_sound {s0 s : State} (seg : Segment) (a : Addr) (b : Identity × Byte) :
    (runClaim seg a b s).Sound false s0 s := by
  obtain ⟨hu, hrest, hg⟩ := runClaim_facts seg a b s
  exact ⟨.of_units (.runClaim seg a b s) hu hg, fun _ => by omega⟩

/-! ### Leases, groups, lookups -/

theorem Answer.Sound.tells {tame : Bool} {s0 s : State} {status : Status} {rest : List Byte}
    (h : s0.RepliesShort → rest.length ≤ 39) :
    ({ state := s, status := status, rest := rest } : Answer).Sound tame s0 s := ⟨.same, h⟩

theorem contestedAnswer_sound {tame : Bool} {s0 s : State} : (contestedAnswer s).Sound tame s0 s :=
  ⟨.same, fun _ => Nat.zero_le _⟩

theorem runRenew_sound {tame : Bool} {s0 s : State} (seg : Segment) (a : Addr) (n : Nat) :
    (runRenew seg a n s).Sound tame s0 s := by
  have he := Edits.runRenew (tame := tame) (short := s0.RepliesShort) seg a n s
  unfold runRenew at *
  split
  · rename_i h g k v r hb
    simp only [hb] at he
    exact ⟨.of_units he (.setBinding a _ s) (.fresh (h := h.on seg) (n := renewLength s.policy n) (v := v) (p := r) (by simp)), by simp [length_le16]⟩
  · rename_i h v r hb
    simp only [hb] at he
    exact ⟨.of_units he (.setBinding a _ s) (.none _ _), by simp [length_le16]⟩
  all_goals exact contestedAnswer_sound

theorem runRetag_sound {tame : Bool} {s0 s : State} (seg : Segment) (a : Addr) {tag : Tag} (ht : tag.length ≤ 8) :
    (runRetag seg a tag s).Sound tame s0 s := by
  have he := Edits.runRetag (tame := tame) (short := s0.RepliesShort) (seg := seg) (a := a) (s := s) ht
  unfold runRetag at *
  split
  · rename_i h l v r hb
    simp only [hb] at he
    exact ⟨.of_units he (.setBinding a _ s) (.none _ _), fun _ => Nat.zero_le _⟩
  all_goals exact contestedAnswer_sound

theorem runRelease_sound {tame : Bool} {s0 s : State} (seg : Segment) (a : Addr) (u : Unit) :
    (runRelease seg a u s).Sound tame s0 s := by
  have he := Edits.runRelease (tame := tame) (short := s0.RepliesShort) seg a u s
  unfold runRelease at *
  split
  · rename_i h l v r hb
    simp only [hb] at he
    exact ⟨.of_units he (.giveUp _ _ _ _ a s) (.none _ _), fun _ => Nat.zero_le _⟩
  all_goals exact contestedAnswer_sound

/-- What JOIN and LEAVE come to besides their edits. -/
structure Answer.OfGroup (s : State) (r : Answer) : Prop where
  units : s.SameUnits r.state
  rest : r.rest.length ≤ 2
  granted : r.granted = []

theorem joinGroup_facts (a : Addr) (g : GroupNo) (s : State) : (joinGroup a g s).OfGroup s := by
  unfold joinGroup
  split
  · exact ⟨.refl, by simp, rfl⟩
  · exact ⟨.refl, by simp, rfl⟩
  · split
    · exact ⟨.refl, by simp [groupCountFields], rfl⟩
    · split
      · exact ⟨.refl, by simp, rfl⟩
      · split
        · exact ⟨.refl, by simp, rfl⟩
        · exact ⟨.appendMember _ _ _ _ a s, by simp [groupCountFields], rfl⟩

theorem leaveGroup_facts (a : Addr) (g : GroupNo) (s : State) : (leaveGroup a g s).OfGroup s := by
  unfold leaveGroup
  split
  · exact ⟨.refl, by simp, rfl⟩
  · exact ⟨.refl, by simp, rfl⟩
  · split
    · exact ⟨.removeMember _ _ _ _ a s, by simp [groupCountFields], rfl⟩
    · exact ⟨.refl, by simp, rfl⟩

theorem groupRequest_sound {tame : Bool} {s0 s : State} {act : Addr → GroupNo → State → Answer} (seg : Segment) (a : Addr)
    (g : GroupNo) (hf : ∀ t : State, (act a g t).OfGroup t)
    (hact : ∀ t : State, (t.binding a).isBound = true → Edits tame s0.RepliesShort t (act a g t).state) :
    (groupRequest act seg a g s).Sound tame s0 s := by
  have he := Edits.groupRequest (tame := tame) (short := s0.RepliesShort) seg a g s hact
  unfold groupRequest at *
  split
  · rename_i h l v r hb
    simp only [hb] at he
    obtain ⟨hu, hrest, hg⟩ := hf (s.setBinding a (.bound (h.on seg) l v r))
    exact ⟨.of_units he ((State.SameUnits.setBinding a _ s).trans hu) (by rw [hg]; exact .none _ _), fun _ => by omega⟩
  all_goals exact contestedAnswer_sound

theorem runResolve_sound {tame : Bool} {s0 s : State} (x : Identity) : (runResolve x s).Sound tame s0 s := by
  unfold runResolve
  split <;> exact .tells (by simp [length_identityBytes])

theorem length_disclosed {b : Binding} (h : b.fits = true) : (disclosed b).length ≤ 16 := by
  cases b with
  | free | reserved _ | offered _ _ _ | held _ _ => simp [disclosed]
  | bound o l v p | contested o l v p c k =>
    simp only [Binding.fits, Bool.and_eq_true, decide_eq_true_eq] at h
    simp only [disclosed, tagField, List.length_append, List.length_cons, length_identityBytes]
    omega

theorem runReverse_sound {tame : Bool} {s0 s : State} (hs : s0.RepliesShort → s.RepliesShort) (a : Addr) :
    (runReverse a s).Sound tame s0 s := by
  refine .tells (fun h => ?_)
  have := length_disclosed ((hs h).2.1 a)
  simp only [List.length_cons]
  omega

theorem runFind_sound {tame : Bool} {s0 s : State} (seg : Segment) (a : Addr) (b : Byte × Addr) :
    (runFind seg a b s).Sound tame s0 s := by
  unfold runFind
  split
  · exact .tells (by simp [ListingEntry.length_bytes])
  · exact .tells (by simp)

theorem length_le32 (g : BitVec 32) : (le32 g).length = 4 := rfl

theorem runList_sound {tame : Bool} {s0 s : State} (seg : Segment) (a : Addr) (b : Byte × Addr) :
    (runList seg a b s).Sound tame s0 s := by
  unfold runList
  split
  · split
    · exact .tells (by simp)
    · exact .tells (by simp [length_le32])
  all_goals exact .tells (by simp)

theorem length_members {r : GroupRecord} (h : r.lawful = true) : r.members.length ≤ 12 := by
  cases r with
  | unused => simp [GroupRecord.members]
  | opened l p m => simp only [GroupRecord.lawful, decide_eq_true_eq] at h; simp only [GroupRecord.members]; omega

theorem runMembers_sound {tame : Bool} {s0 s : State} (hs : s0.RepliesShort → s.RepliesShort) (g : GroupNo) :
    (runMembers g s).Sound tame s0 s := by
  unfold runMembers
  split
  · exact .tells (by simp)
  · rename_i l p m hg
    refine .tells (fun h => ?_)
    have := length_members ((hs h).1 g)
    rw [hg] at this
    simp only [GroupRecord.members] at this
    simp only [groupCountFields, List.length_append, List.length_cons, List.length_nil, List.length_map]
    omega

end Sys2Proof.Machine
end

section
/-! PROOFS. The listing units (section 6.2): the numbers of a listing stay in their ranges, and LIST, LIST-ACK and the
acknowledgement timer change no record. -/

namespace Sys2Proof.Machine

/-! ### The frames of a listing -/

theorem pairwise_allAddrs : allAddrs.Pairwise (· < ·) := List.pairwise_lt_finRange 96

/-- What is found stands in ascending order of address (R128, R132). -/
theorem State.pairwise_matchesFrom (s : State) (filter : Byte) (start : Nat) :
    (s.matchesFrom filter start).Pairwise (fun e d => e.address < d.address) := by
  unfold State.matchesFrom
  refine List.Pairwise.filterMap _ (fun a b hab e he d hd => ?_) (pairwise_allAddrs.filter _)
  rw [listingEntry_address he, listingEntry_address hd]
  exact hab

/-- The next address of a frame that is not the last lies four or more behind, and within 96 (R132). -/
theorem nextAfter_range (s : State) (filter : Byte) {next : Nat} (index : Nat) (g : BitVec 32) (hn : next ≤ 96) :
    next ≤ nextAfter (s.buildFrame filter next index g) next
      ∧ nextAfter (s.buildFrame filter next index g) next ≤ 96
      ∧ ((s.buildFrame filter next index g).endFlag = false →
        next + 4 ≤ nextAfter (s.buildFrame filter next index g) next) := by
  rw [nextAfter_buildFrame]
  have hp := s.pairwise_matchesFrom filter next
  have hm := fun e => (s.mem_matchesFrom filter next e).mp
  match hf : s.matchesFrom filter next with
  | [] | [_] | [_, _] | [_, _, _] | [_, _, _, _] =>
    have hend : (s.buildFrame filter next index g).endFlag = true := by simp [State.buildFrame, Config.listingEntries, hf]
    simp [hend, hn]
  | e0 :: e1 :: e2 :: e3 :: e4 :: r =>
    have hend : (s.buildFrame filter next index g).endFlag = false := by
      simp [State.buildFrame, Config.listingEntries, hf]
    have hfourth : (s.buildFrame filter next index g).entries[3]? = some e3 := by
      simp [State.buildFrame, Config.listingEntries, hf]
    rw [hf] at hp hm
    have h0 := (hm e0 (by simp)).1
    simp only [List.pairwise_cons, List.mem_cons, forall_eq_or_imp, Fin.lt_def] at hp
    have h4 := e4.address.isLt
    rw [hend, hfourth]
    show next ≤ e3.address.val + 2 ∧ e3.address.val + 2 ≤ 96 ∧ (false = false → next + 4 ≤ e3.address.val + 2)
    omega

theorem State.entries_buildFrame (s : State) (filter : Byte) (next index : Nat) (g : BitVec 32) :
    (s.buildFrame filter next index g).entries.length ≤ 4 :=
  List.length_take_le _ _

/-- Frame 0 of a listing (R131). -/
theorem Listing.inRange_first (s : State) (a : Addr) (n : BitVec 4) (filter : Byte) {start : Nat} (g h : BitVec 32)
    (h1 : 1 ≤ start) (h2 : start ≤ 96) :
    Listing.inRange
      { requester := a, sequence := n, filter := filter, next := nextAfter (s.buildFrame filter start 0 g) start,
        startGeneration := h, built := s.buildFrame filter start 0 g, sends := 1, timer := none } := by
  obtain ⟨hlo, hhi, hmore⟩ := nextAfter_range s filter 0 g h2
  refine ⟨Nat.le_refl 1, (by decide : 1 ≤ 4), Nat.zero_le _, s.entries_buildFrame _ _ _ _, ?_, fun he => ?_, hhi⟩
  · exact Nat.le_trans h1 hlo
  · have := hmore he
    show 5 ≤ _
    dsimp only
    omega

/-- The frame after one that is not the last (R134). -/
theorem Listing.inRange_next {l : Listing} (s : State) (h : l.inRange) (he : l.built.endFlag = false) :
    Listing.inRange
      { l with
        built := s.buildFrame l.filter l.next (l.built.index + 1) l.startGeneration
        next := nextAfter (s.buildFrame l.filter l.next (l.built.index + 1) l.startGeneration) l.next
        sends := 1, timer := none } := by
  obtain ⟨_, _, hi, _, _, hnext, hle⟩ := h
  have hnext := hnext he
  obtain ⟨hlo, hhi, hmore⟩ := nextAfter_range s l.filter (l.built.index + 1) l.startGeneration hle
  have hindex : (s.buildFrame l.filter l.next (l.built.index + 1) l.startGeneration).index = l.built.index + 1 := rfl
  refine ⟨Nat.le_refl 1, (by decide : 1 ≤ 4), ?_, s.entries_buildFrame _ _ _ _, ?_, fun hf => ?_, hhi⟩
  · dsimp only; rw [hindex]; omega
  · dsimp only; rw [hindex]; omega
  · have := hmore hf
    dsimp only
    rw [hindex]
    omega

/-! ### Sends -/

/-- The listing of a segment after a send: the one sent, with its timer stopped or started (R52, R133). -/
theorem State.listing_sendListing {seg k : Segment} {l m : Listing} {s : State}
    (h : ((s.setListing seg (some l)).sendListing seg).listing k = some m) :
    (k = seg ∧ m.requester = l.requester) ∨ (k ≠ seg ∧ s.listing k = some m) := by
  by_cases hk : k = seg
  · subst hk
    rcases State.sendListing_cases k l s with ⟨_, _, he⟩ | he
    all_goals
      rw [he] at h
      simp at h
      subst h
      exact .inl ⟨rfl, rfl⟩
  · rcases State.sendListing_cases seg l s with ⟨_, _, he⟩ | he
    all_goals
      rw [he] at h
      simp [hk] at h
      exact .inr ⟨hk, h⟩

/-- A listing is sent for a requester that is bound, outside STOPPED. -/
theorem Follows.sendListing {tame : Bool} {s0 s : State} {seg : Segment} {l : Listing}
    (hidle : ∀ m, s.listing seg = some m → m.timer ≠ none)
    (hk : s0.LinesLawful → s0.ListingsLawful → l.inRange ∧ s.enabled seg = true)
    (he : s0.FramesFit → l.built.entries.length ≤ 4)
    (hr : s.RequestersStand → s.phase.isStopped = false ∧ (s.binding l.requester).isBound = true) :
    Follows tame s0 s ((s.setListing seg (some l)).sendListing seg) where
  edits := .one (.same ((State.SameDirectory.setListing seg _ s).trans (.sendListing seg _)))
  lines := .single (.send seg l hidle hk he)
  record a := by simp
  lease a _ _ _ p hb := ⟨p, by simpa using hb⟩
  group := by simp
  generation := by simp
  marks := by simp
  requesters hs k m hm := by
    rcases State.listing_sendListing hm with ⟨rfl, hq⟩ | ⟨_, hm⟩
    · rw [hq]; simpa using hr hs
    · simpa using hs k m hm
  port _ hp := by simpa using hp

theorem Follows.endListing {tame : Bool} {s0 s : State} (seg : Segment) : Follows tame s0 s (s.endListing seg) :=
  .of_lines (.endListing seg s) (.single (.ends seg)) (by simp) (by simp)
    (fun k l hl => by
      rw [State.listing_endListing] at hl
      split at hl
      · cases hl
      · exact ⟨l, hl, rfl⟩)
    (by simp)

/-- LIST starts a listing in an idle unit (R131). -/
theorem Follows.startListing {tame : Bool} {s0 s : State} {seg : Segment} {a : Addr} (n : BitVec 4) (filter : Byte)
    {start : Nat} (hl : s.listing seg = none) (he : s0.LinesLawful → s.enabled seg = true) (h1 : 1 ≤ start)
    (h2 : start ≤ 96) (hp : s.phase.isStopped = false) (hb : (s.binding a).isBound = true) :
    Follows tame s0 s (s.startListing seg a n filter start) :=
  .sendListing (by simp [hl]) (fun hlines _ => ⟨Listing.inRange_first s a n filter _ _ h1 h2, he hlines⟩)
    (fun _ => s.entries_buildFrame _ _ _ _) (fun _ => ⟨hp, hb⟩)

/-- An accepted acknowledgement (R134). -/
theorem Follows.acknowledge {tame : Bool} {s0 s : State} {seg : Segment} {a : Addr} (body : List Byte)
    (hs : s0.Took s seg) (hb : (s.binding a).isBound = true) : Follows tame s0 s (s.acknowledge seg a body) := by
  unfold State.acknowledge
  split
  · rename_i l i hl
    split
    · rename_i hreq
      split
      · exact .endListing seg
      · rename_i hend
        have heq : s.advanceListing seg l = ((s.endListing seg).setListing seg (some
            { l with
              built := s.buildFrame l.filter l.next (l.built.index + 1) l.startGeneration
              next := nextAfter (s.buildFrame l.filter l.next (l.built.index + 1) l.startGeneration) l.next
              sends := 1, timer := none })).sendListing seg := by
          unfold State.advanceListing State.endListing
          cases seg <;> rfl
        rw [heq]
        have hl0 : s0.listing seg = some l := by rw [← hs.listing]; exact hl
        refine (Follows.endListing seg).trans (.sendListing ?_ (fun h1 h2 => ⟨?_, ?_⟩) (fun _ => s.entries_buildFrame _ _ _ _)
          (fun _ => ?_))
        · intro m hm; rw [State.listing_endListing, if_pos rfl] at hm; cases hm
        · exact Listing.inRange_next s (((State.listingsLawful_iff s0).mp h2).1 seg |>.running l hl0).2.1 (by simpa using hend)
        · have := hs.enabled h1
          simpa [State.enabled, State.line_endListing] using this
        · exact ⟨by simpa using hs.running, by simpa [hreq.1] using hb⟩
    · exact .still
  · exact .still

end Sys2Proof.Machine
end

section
/-! PROOFS. Every host command but COLLECT is an application with a reply that fits the port. -/

namespace Sys2Proof.Machine

/-! ### What an application hands over before its end -/

theorem vacateNotice_sendable (a : Addr) (x : Identity) (r : VacateReason) : (vacateNotice a x r).sendable :=
  ⟨rfl, by simp [vacateNotice, noticeFrame, length_identityBytes]⟩

theorem LineEdits.broadcast {s0 s : State} {f : Frame} (hf : f.sendable) : LineEdits s0 s (s.broadcast f) := by
  unfold State.broadcast
  dsimp only
  split <;> split
  · exact (Chain.single (.notice .a f hf)).tail (.notice .b f hf)
  · exact .single (.notice .b f hf)
  · exact .single (.notice .a f hf)
  · exact .refl

theorem Reaches.then_lines {tame : Bool} {s0 s x y : State} {g : List Addr} (h : Reaches tame s0 s x g)
    (hd : x.SameDirectory y) (hl : LineEdits s0 x y) (hi : ∀ k l, y.listing k = some l → x.listing k = some l)
    (hp : y.port = x.port) (hg : y.generation = x.generation) (hm : y.marks = x.marks) : Reaches tame s0 s y g where
  edits := h.edits.then_same hd
  lines := h.lines.trans hl
  listing k l hl := by rw [hd.phase]; exact h.listing k l (hi k l hl)
  port := hp.trans h.port
  generation := hg.trans h.generation
  marks := hm.trans h.marks
  granted := by simpa [GrantsLawfully, hd.binding] using h.granted

theorem Reaches.sendVacate {tame : Bool} {s0 s x : State} {g : List Addr} (h : Reaches tame s0 s x g) (a : Addr)
    (i : Identity) (seg : Segment) (r : VacateReason) : Reaches tame s0 s (x.sendVacate a i seg r) g :=
  h.then_lines (.sendVacate a i seg r x) (.single (.notice seg _ (vacateNotice_sendable a i r))) (by simp) (by simp)
    (by simp) (by simp)

theorem Reaches.broadcast {tame : Bool} {s0 s x : State} {g : List Addr} (h : Reaches tame s0 s x g) {f : Frame}
    (hf : f.sendable) : Reaches tame s0 s (x.broadcast f) g :=
  h.then_lines (.broadcast f x) (.broadcast hf) (by simp) (by simp) (by simp) (by simp)

/-! ### Commands that change one binding -/

theorem Reaches.expel {tame : Bool} {s0 s : State} {a : Addr} {h : Holder} (k : s.Holds a h) (l : Lease) (v : Bool) :
    Reaches tame s0 s (s.expel h l v a) [] :=
  .of_units (.expel k l v) (.expel h l v a s) (.none _ _)

theorem unreserveAddress_sound {tame : Bool} {s : State} (a : Addr) : (unreserveAddress a s).Sound tame s := by
  have he := Edits.unreserveAddress (tame := tame) (short := s.RepliesShort) a s
  unfold unreserveAddress doneStateAfter at *
  cases hb : s.binding a with
  | reserved r => dsimp only; exact ⟨.of_units (.goFree .tail a s) (.goFree .tail a s) (.none _ _), by simp⟩
  | bound h l v p =>
    simp only [hb] at he ⊢
    exact ⟨.of_units he (.setBinding a _ s) (.none _ _), by simp⟩
  | contested h l v p c r =>
    simp only [hb] at he ⊢
    exact ⟨.of_units he (.setBinding a _ s) (.none _ _), by simp⟩
  | offered h o r =>
    cases o with
    | reserved k =>
      simp only [hb] at he ⊢
      exact ⟨.of_units he (.setBinding a _ s) (.none _ _), by simp⟩
    | free | held => exact .failed _
  | free | held _ _ => exact .failed _

theorem evictAddress_sound {tame : Bool} {s : State} (a : Addr) : (evictAddress a s).Sound tame s := by
  unfold evictAddress evicted
  split
  · rename_i h l v p hb
    exact ⟨(Reaches.expel (.self (by rw [hb]; rfl)) l v).sendVacate _ _ _ _, by simp⟩
  · rename_i h o r hb
    exact ⟨.of_units (.revokeOffer (.self (by rw [hb]; rfl)) o) (.revokeOffer h o a s) (.none _ _), by simp⟩
  · rename_i h l v p c r hb
    exact ⟨((Reaches.expel (.self (by rw [hb]; rfl)) l v).sendVacate _ _ _ _).sendVacate _ _ _ _, by simp⟩
  · exact ⟨.of_units (.makeAnonymous a s) (.makeAnonymous a s) (.none _ _), by simp⟩
  all_goals exact .failed _

theorem Reaches.keepIncumbent {tame : Bool} {s0 s : State} {a : Addr} {h : Holder} {l : Lease} {v : Bool} {p : Option Replay}
    {c : Challenger} {k : Option Countdown} (hb : s.binding a = .contested h l v p c k) :
    Reaches tame s0 s (s.keepIncumbent h l v a) [a] :=
  .of_units (.keepIncumbent (.self (by rw [hb]; rfl)) l v) (.keepIncumbent h l v a s) (.moved (by simp [hb, Binding.state]))

theorem Reaches.keepChallenger {tame : Bool} {s0 s : State} {a : Addr} {h : Holder} {l : Lease} {v : Bool} {p : Option Replay}
    {c : Challenger} {k : Option Countdown} (hb : s.binding a = .contested h l v p c k) :
    Reaches tame s0 s (s.keepChallenger c l v a) [a] :=
  .of_units (.keepChallenger hb) (.keepChallenger c l v a s) (.moved (by simp [hb, Binding.state]))

theorem resolveContest_sound {tame : Bool} {s : State} (p : Addr × Keep) : (resolveContest p s).Sound tame s := by
  have hlen : ∀ (x : Option Identity) (c : Byte), (c :: fieldBytes 6 identityBytes x).length ≤ 61 := by
    intro x c
    cases x <;> simp [fieldBytes, zeros, length_identityBytes]
  unfold resolveContest settled
  dsimp only
  split
  · rename_i h l v q c r hb
    split
    · exact ⟨(Reaches.keepIncumbent hb).sendVacate _ _ _ _, fun _ => hlen _ _⟩
    · exact ⟨(Reaches.keepChallenger hb).sendVacate _ _ _ _, fun _ => hlen _ _⟩
    · refine ⟨Reaches.sendVacate (Reaches.sendVacate (.of_units (.expel (.self (by rw [hb]; rfl)) l v)
        (.expel h l v p.1 s) (.moved ?_)) _ _ _ _) _ _ _ _, fun _ => hlen _ _⟩
      rw [hb, State.expel_state]
      split
      · simp [Binding.state]
      · split <;> simp [Binding.state]
  all_goals exact .failed _

theorem modifyAddress_sound {tame : Bool} {s : State} {p : Addr × Byte × LeaseChoice × Nat × Tag}
    (hn : p.2.2.1 = .timed → 10 ≤ p.2.2.2.1 ∧ p.2.2.2.1 ≤ 65535) (ht : p.2.2.2.2.length ≤ 8) :
    (modifyAddress p s).Sound tame s := by
  have he := Edits.modifyAddress (tame := tame) (short := s.RepliesShort) (s := s) hn ht
  obtain ⟨a, c, choice, n, tag⟩ := p
  unfold modifyAddress at *
  dsimp only at *
  split
  · rename_i h l v r hb
    simp only [hb] at he
    refine ⟨.of_units he (.setBinding a _ s) ?_, by simp [length_le16]⟩
    dsimp only
    split
    · rename_i hc
      subst hc
      exact .fresh (h := { h with cls := c, tag := tag }) (n := n) (v := v) (p := r) (by simp [LeaseChoice.onLease])
    · exact .none _ _
  · rename_i r hb
    simp only [hb] at he
    exact ⟨.of_units he (.setBinding a _ s) (.none _ _), by simp [length_le16]⟩
  all_goals exact .failed _

theorem State.SameUnits.anonymizeOther (x : Identity) (a : Addr) (s : State) : s.SameUnits (s.anonymizeOther x a) := by
  unfold State.anonymizeOther
  split
  · exact .makeAnonymous _ s
  · exact .refl

theorem reserveAddress_sound {s : State} {p : Addr × Reservation} (ht : p.2.tag.length ≤ 8) :
    (reserveAddress p s).Sound false s := by
  have he := Edits.reserveAddress (short := s.RepliesShort) (s := s) ht
  unfold reserveAddress at *
  dsimp only at *
  split
  · exact .failed _
  · rename_i h
    rw [if_neg h] at he
    exact ⟨.of_units he ((State.SameUnits.anonymizeOther _ _ s).trans (.goReserved _ _ _)) (.none _ _), by simp⟩

/-! ### The admission unit -/

theorem deny_sound {s : State} (p : Identity × Bool) : (deny p s).Sound false s := by
  have he := Edits.deny (short := s.RepliesShort) p s
  unfold deny at *
  dsimp only at *
  split
  · exact .failed _
  · rename_i h
    rw [if_neg h] at he
    split
    · rename_i hbar
      rw [if_pos hbar] at he
      split
      · exact .failed _
      · rename_i hfull
        rw [if_neg hfull] at he
        exact ⟨.of_units he ((State.SameUnits.addBarred _ s).trans (.removeEntry _ _)) (.none _ _), by simp⟩
    · rename_i hbar
      rw [if_neg hbar] at he
      exact ⟨.of_units he (.removeEntry _ s) (.none _ _), by simp⟩

theorem unbar_sound {tame : Bool} {s : State} (x : Identity) : (unbar x s).Sound tame s := by
  have he := Edits.unbar (tame := tame) (short := s.RepliesShort) x s
  unfold unbar at *
  split
  · rename_i h
    rw [if_pos h] at he
    exact ⟨.of_units he (by constructor <;> intros <;> rfl) (.none _ _), by simp⟩
  · exact .failed _

/-- What BAR does to a binding is an application, which grants the keeper of a contest a lease (R76, R125). -/
theorem Reaches.barBinding {tame : Bool} {s0 s : State} (x : Identity) (a : Addr) :
    Reaches tame s0 s (s.barBinding x a) (barIdentity.grantedAt s a) := by
  unfold State.barBinding barIdentity.grantedAt
  cases hb : s.binding a with
  | free | reserved _ => exact .same
  | offered h o r =>
    exact .of_units (.revokeOffer (.self (by rw [hb]; rfl)) o) (.revokeOffer h o a s) (.none _ _)
  | bound h l v p => exact (Reaches.expel (.self (by rw [hb]; rfl)) l v).sendVacate _ _ _ _
  | held f r => exact .of_units (.makeAnonymous a s) (.makeAnonymous a s) (.none _ _)
  | contested h l v p c k =>
    dsimp only
    split
    · exact (Reaches.keepChallenger hb).sendVacate _ _ _ _
    · exact (Reaches.keepIncumbent hb).sendVacate _ _ _ _

/-- An application that first edits the directory but for the records and the units. -/
theorem Reaches.after {tame : Bool} {s0 s t x : State} {g : List Addr} (he : Edits tame s0.RepliesShort s t)
    (hu : s.SameUnits t) (hb : ∀ a, t.binding a = s.binding a) (h : Reaches tame s0 t x g) : Reaches tame s0 s x g where
  edits := Edits.trans he h.edits
  lines := Chain.head (.same hu.line hu.listing) h.lines
  listing k l hl := by
    have := h.listing k l hl
    rwa [hu.listing, hu.phase] at this
  port := h.port.trans hu.port
  generation := h.generation.trans hu.generation
  marks := h.marks.trans hu.marks
  granted := by simpa [GrantsLawfully, hb] using h.granted

theorem barIdentity_sound {s : State} (x : Identity) : (barIdentity x s).Sound false s := by
  have hbar : Edits false s.RepliesShort s ((s.addBarred x).removeEntry x) :=
    Edits.trans (.addBarred x s) (.removeEntry x _)
  have hunits : s.SameUnits ((s.addBarred x).removeEntry x) := (State.SameUnits.addBarred x s).trans (.removeEntry x _)
  unfold barIdentity
  dsimp only
  split
  · exact .reads (by simp)
  · split
    · exact .failed _
    · split
      · exact ⟨.after hbar hunits (by simp) (.barBinding x _), by simp⟩
      · exact ⟨.of_units hbar hunits (.none _ _), by simp⟩

theorem approve_sound {s : State} (x : Identity) : (approve x s).Sound false s := by
  have he := Edits.approve (short := s.RepliesShort) x s
  have hu : s.SameUnits (approve x s).state ∧ (approve x s).granted = [] ∧ (approve x s).data.length ≤ 2 := by
    unfold approve
    split
    · exact ⟨.refl, rfl, by simp [failed]⟩
    · split
      · exact ⟨.refl, rfl, by simp [failed]⟩
      · split
        · exact ⟨.refl, rfl, by simp [failed]⟩
        · unfold offerFromEntry
          dsimp only
          split
          · exact ⟨.makeOffer _ _ _ s, rfl, by simp [approved]⟩
          · split
            · exact ⟨.offerNewcomer _ _ s, rfl, by simp [approved]⟩
            · exact ⟨.refl, rfl, by simp [failed]⟩
  exact ⟨.of_units he hu.1 (by rw [hu.2.1]; exact .none _ _), fun _ => Nat.le_trans hu.2.2 (by decide)⟩

/-! ### Policy and phase -/

theorem setPolicy_sound {tame : Bool} {s : State} (ps : List Byte) : (setPolicy ps s).Sound tame s := by
  have he := Edits.setPolicy (tame := tame) (short := s.RepliesShort) ps s
  have hlen : ∀ p, (policyBytes p).length ≤ 61 := by intro p; simp [policyBytes, length_le16]
  unfold setPolicy at *
  split
  · exact .reads (fun _ => hlen _)
  · unfold withParams at *
    split
    · rename_i p hp
      simp only [hp] at he
      unfold replacePolicy at *
      split
      · exact .failed _
      · rename_i hlim
        rw [if_neg hlim] at he
        exact ⟨.of_units he (by constructor <;> intros <;> rfl) (.none _ _), fun _ => hlen _⟩
    · exact .failed _

theorem State.SameUnits.withdrawals (which : Origin → Bool) (l : List Addr) (s : State) :
    s.SameUnits (l.foldl (fun t a => t.withdrawOffer which a) s) := by
  induction l generalizing s with
  | nil => exact .refl
  | cons a l ih =>
    refine State.SameUnits.trans ?_ (ih (s.withdrawOffer which a))
    unfold State.withdrawOffer
    split
    · split
      · exact .returnOffer _ _ _ _ a s
      · exact .refl
    all_goals exact .refl

theorem State.SameUnits.withdrawOffers (s : State) : s.SameUnits s.withdrawOffers :=
  (State.SameUnits.withdrawals _ _ s).trans (.withdrawals _ _ _)

theorem State.listing_broadcast (f : Frame) (s : State) (k : Segment) : (s.broadcast f).listing k = s.listing k := by simp

/-- The units after the entry into RECALL, but for the notice it sends. -/
theorem State.SameUnits.recalled {s t : State} (h : s.SameUnits t) (w : Nat) :
    (∀ k, ({ t with phase := .recall (Countdown.fresh w), admission := [] } : State).line k = s.line k)
      ∧ (∀ k, ({ t with phase := .recall (Countdown.fresh w), admission := [] } : State).listing k = s.listing k) := by
  refine ⟨fun k => ?_, fun k => ?_⟩
  · rw [← h.line]; cases k <;> rfl
  · rw [← h.listing]; cases k <;> rfl

theorem HostAnswer.Sound.of_reaches {tame : Bool} {s x : State} {status : HostStatus} {data : List Byte}
    (h : Reaches tame s s x []) (hd : data.length ≤ 61) :
    ({ state := x, status := status, data := data } : HostAnswer).Sound tame s := ⟨h, fun _ => hd⟩

theorem startDirectory_sound {tame : Bool} {s : State} {w : Nat} (hw : w ≤ 60) : (startDirectory w s).Sound tame s := by
  have he := Edits.startDirectory (tame := tame) (short := s.RepliesShort) (s := s) hw
  have hsend : (recallNotice w).sendable := ⟨rfl, by simp [recallNotice, noticeFrame]⟩
  unfold startDirectory at *
  split
  · rename_i hs
    rw [if_pos hs] at he
    dsimp only at he ⊢
    by_cases hz : w = 0
    · rw [if_pos hz] at he ⊢
      refine ⟨⟨he, .single (.same (fun k => ?_) (fun k => ?_)), fun k l hl => ⟨?_, fun _ => hs⟩, rfl, rfl, rfl, .none _ _⟩,
        by simp⟩
      · cases k <;> rfl
      · cases k <;> rfl
      · rw [← hl]; cases k <;> rfl
    · rw [if_neg hz] at he ⊢
      have hu := State.SameUnits.withdrawOffers s
      obtain ⟨hline, hlist⟩ := hu.recalled w
      have hkeep : ∀ k, (s.enterRecall w).listing k = s.listing k := fun k => (State.listing_broadcast _ _ k).trans (hlist k)
      have hlines : LineEdits s s (s.enterRecall w) := by
        unfold State.enterRecall
        exact Chain.head (.same hline hlist) (LineEdits.broadcast hsend)
      refine .of_reaches ⟨he, hlines, fun k l hl => ⟨(hkeep k).symm.trans hl, fun _ => hs⟩, ?_, ?_, ?_, .none _ _⟩ (by simp)
      · simp only [State.enterRecall, State.broadcast_keeps]; exact hu.port
      · simp only [State.enterRecall, State.broadcast_keeps]; exact hu.generation
      · simp only [State.enterRecall, State.broadcast_keeps]; exact hu.marks
  · exact .failed _

/-- Both listings end. -/
theorem State.listing_endListings (s : State) (k : Segment) : ((s.endListing .a).endListing .b).listing k = none := by
  cases k <;> simp [State.listing_endListing]

theorem LineEdits.endListings {s0 s t : State} (hl : ∀ k, t.line k = s.line k) (hi : ∀ k, t.listing k = s.listing k) :
    LineEdits s0 s ((t.endListing .a).endListing .b) :=
  ((Chain.single (.same hl hi)).tail (.ends .a)).tail (.ends .b)

theorem stopDirectory_sound {tame : Bool} {s : State} (u : Unit) : (stopDirectory u s).Sound tame s := by
  have he := Edits.stopDirectory (tame := tame) (short := s.RepliesShort) u s
  unfold stopDirectory at *
  split
  · exact .failed _
  · rename_i hs
    rw [if_neg hs] at he
    refine ⟨⟨he, .endListings (fun k => ?_) (fun k => ?_), ?_, ?_, ?_, ?_, .none _ _⟩, by simp⟩ <;> dsimp only
    · cases k <;> rfl
    · cases k <;> rfl
    · intro k l hl; rw [State.listing_endListings] at hl; cases hl
    all_goals simp only [State.endListing_keeps]; rfl

theorem clearDirectory_sound {tame : Bool} {s : State} (k : Bool × Bool) : (clearDirectory k s).Sound tame s := by
  have he := Edits.clearDirectory (tame := tame) (short := s.RepliesShort) k s
  unfold clearDirectory at *
  split
  · rename_i hs
    rw [if_pos hs] at he
    refine ⟨⟨he, .endListings (fun k => ?_) (fun k => ?_), ?_, ?_, ?_, ?_, .none _ _⟩, by simp [length_le32]⟩
    · cases k <;> rfl
    · cases k <;> rfl
    · intro k l hl
      dsimp only at hl
      rw [State.clearTable, State.listing_endListings] at hl
      cases hl
    all_goals dsimp only; simp only [State.clearTable, State.endListing_keeps]
  · exact .failed _

/-! ### Groups -/

theorem openGroup_sound {tame : Bool} {s : State} {p : GroupNo × Nat × JoinPolicy} (hl : 1 ≤ p.2.1 ∧ p.2.1 ≤ 12) :
    (openGroup p s).Sound tame s := by
  have he := Edits.openGroup (tame := tame) (short := s.RepliesShort) (s := s) hl
  obtain ⟨g, limit, policy⟩ := p
  unfold openGroup at *
  dsimp only at *
  split
  · rename_i hg
    simp only [hg] at he
    exact ⟨.of_units he (by constructor <;> simp) (.none _ _), by simp [openGroupBytes]⟩
  · rename_i was q m hg
    simp only [hg] at he
    split
    · exact .failed _
    · rename_i hlim
      rw [if_neg hlim] at he
      exact ⟨.of_units he (by constructor <;> simp) (.none _ _), by simp [openGroupBytes]⟩

theorem State.SameUnits.regroup (g : GroupNo) (r : GroupRecord) (n : Nat) (s : State) :
    s.SameUnits { s.setGroup g r with poolFree := n } :=
  ⟨fun k => by cases k <;> rfl, fun k => by cases k <;> rfl, rfl, rfl, rfl, rfl⟩

theorem closeGroup_sound {tame : Bool} {s : State} (g : GroupNo) : (closeGroup g s).Sound tame s := by
  have hsend : (groupClosedNotice g).sendable := ⟨rfl, by simp [groupClosedNotice, noticeFrame]⟩
  unfold closeGroup
  split
  · exact .failed _
  · rename_i limit p m hg
    refine ⟨Reaches.broadcast (.of_units (.one (.regroup g .unused (s.poolFree + m.length) ?_ (fun _ => rfl) nofun))
      (.regroup g .unused _ s) (.none _ _)) hsend, by simp⟩
    simp [hg, GroupRecord.members]

theorem addMember_sound {tame : Bool} {s : State} (p : GroupNo × Addr) : (addMember p s).Sound tame s := by
  have he := Edits.addMember (tame := tame) (short := s.RepliesShort) p s
  obtain ⟨g, a⟩ := p
  unfold addMember at *
  dsimp only at *
  split
  · exact .failed _
  · rename_i limit q m hg
    simp only [hg] at he
    split
    · exact .failed _
    · rename_i hb
      rw [if_neg hb] at he
      split
      · exact .reads (by simp)
      · rename_i hm
        rw [if_neg hm] at he
        split
        · exact .failed _
        · rename_i hlim
          rw [if_neg hlim] at he
          split
          · exact .failed _
          · rename_i hpool
            rw [if_neg hpool] at he
            exact ⟨.of_units he (.appendMember _ _ _ _ a s) (.none _ _), by simp⟩

theorem removeMemberOf_sound {tame : Bool} {s : State} (p : GroupNo × Addr) : (removeMemberOf p s).Sound tame s := by
  have he := Edits.removeMemberOf (tame := tame) (short := s.RepliesShort) p s
  obtain ⟨g, a⟩ := p
  unfold removeMemberOf at *
  dsimp only at *
  split
  · exact .failed _
  · rename_i limit q m hg
    simp only [hg] at he
    split
    · rename_i hm
      rw [if_pos hm] at he
      exact ⟨.of_units he (.removeMember _ _ _ _ a s) (.none _ _), by simp⟩
    · exact .failed _

/-! ### Commands that read -/

theorem readAdmission_sound {tame : Bool} {s : State} (p : Nat) : (readAdmission p s).Sound tame s := by
  refine .reads (fun hs => ?_)
  cases he : s.admission[p]? with
  | none => simp [readAdmission.fieldBytesOrNone]
  | some e =>
    have := hs.2.2 e (List.mem_of_getElem? he)
    simp only [readAdmission.fieldBytesOrNone, entryBytes, tagField, List.length_cons, List.length_append,
      length_identityBytes, length_le16, List.length_nil]
    omega

theorem readBarred_sound {tame : Bool} {s : State} (i : Nat) : (readBarred i s).Sound tame s := by
  refine .reads (fun _ => ?_)
  have h8 : ((s.barred.drop i).take 8).length ≤ 8 := List.length_take_le _ _
  have hsum := length_flatMap_of_length length_identityBytes ((s.barred.drop i).take 8)
  simp only [List.length_cons, hsum]
  omega

theorem readGroup_sound {tame : Bool} {s : State} (g : GroupNo) : (readGroup g s).Sound tame s := by
  refine .reads (fun hs => ?_)
  have hm := length_members (hs.1 g)
  cases hg : s.group g with
  | unused => simp [groupFields]
  | opened l p m =>
    rw [hg] at hm
    simp only [GroupRecord.members] at hm
    simp only [groupFields, openGroupBytes, List.length_cons, List.length_append, List.length_map, List.length_nil]
    omega

theorem findIdentity_sound {tame : Bool} {s : State} (x : Identity) : (findIdentity x s).Sound tame s := by
  refine .reads (fun _ => ?_)
  split <;> simp

theorem readFactors_sound {tame : Bool} {s : State} (u : Unit) : (readFactors u s).Sound tame s :=
  .reads (by simp [factorBytes, length_le16])

theorem clearFactors_sound {tame : Bool} {s : State} (f : BitVec 12) : (clearFactors f s).Sound tame s :=
  ⟨.of_units (.one (.same (by constructor <;> intros <;> rfl))) (by constructor <;> intros <;> rfl) (.none _ _),
    by simp [clearFactors, factorBytes, length_le16]⟩

theorem setEnables_sound {tame : Bool} {s : State} (f : BitVec 12) : (setEnables f s).Sound tame s :=
  ⟨.of_units (.one (.same (by constructor <;> intros <;> rfl))) (by constructor <;> intros <;> rfl) (.none _ _),
    by simp [setEnables, factorBytes, length_le16]⟩

theorem readStatus_sound {tame : Bool} {s : State} (u : Unit) : (readStatus u s).Sound tame s :=
  .reads (by simp [statusBytes, length_le32])

/-! ### READ-RECORD -/

theorem Binding.view_tag {b : Binding} (h : b.fits = true) : b.view.tag.length ≤ 8 := by
  cases b with
  | free => simp [Binding.view]
  | reserved r => simpa [Binding.view, Binding.fits] using h
  | offered o g r => simpa [Binding.view, Binding.fits] using h
  | bound o l v p | contested o l v p c k =>
    simp only [Binding.fits, Bool.and_eq_true, decide_eq_true_eq] at h
    exact h.1
  | held f r => cases f <;> simp_all [Binding.view, Binding.fits]

theorem length_fieldBytes {α : Type} {n : Nat} {f : α → List Byte} (h : ∀ x, (f x).length = n) (o : Option α) :
    (fieldBytes n f o).length = n := by
  cases o <;> simp [fieldBytes, zeros, h]

theorem readRecord_sound {tame : Bool} {s : State} (a : Addr) : (readRecord a s).Sound tame s := by
  refine .reads (fun hs => ?_)
  have htag := Binding.view_tag (hs.2.1 a)
  have hgroups : (s.groupsOf a).length ≤ 16 := by
    have := List.length_filter_le (fun g => (s.group g).members.contains a) allGroups
    simpa [State.groupsOf, allGroups] using this
  unfold recordBytes
  dsimp only
  simp only [List.length_append, List.length_cons, List.length_nil, List.length_map, length_le16,
    length_fieldBytes (n := 7) (f := fun p : Identity × Byte => identityBytes p.1 ++ [p.2]) (fun _ => rfl),
    length_fieldBytes (n := 1) (f := fun k : LeaseKind => [leaseKindCode k]) (fun _ => rfl),
    length_fieldBytes (n := 1) (f := fun g : Segment => [segmentCode g]) (fun _ => rfl),
    length_fieldBytes (n := 4) (f := fun p : Nat × Nat => le16 p.1 ++ le16 p.2) (fun _ => rfl),
    length_fieldBytes (n := 2) (f := fun p : Byte × Nat => [p.1, BitVec.ofNat 8 p.2]) (fun _ => rfl),
    length_fieldBytes (n := 2) length_le16,
    length_fieldBytes (n := 8) (f := fun c : Challenger => identityBytes c.identity ++ [c.cls, segmentCode c.segment])
      (fun _ => rfl),
    length_fieldBytes (n := 3) (f := fun r : Replay => [0#4 ++ r.sequence, r.kind, r.status.code]) (fun _ => rfl),
    tagField, zeros, List.length_replicate]
  omega

/-! ### Segment commands -/

theorem configureSegment_sound {tame : Bool} {s : State} (p : Segment × Format) : (configureSegment p s).Sound tame s := by
  unfold configureSegment
  split
  · refine ⟨Reaches.same.then_lines (.setLine _ _ s) (.single (.line _ _ rfl rfl (fun f hf => .inl hf) id)) (by simp)
      (by simp) (by simp) (by simp), by simp [formatBytes]⟩
  · exact .failed _

theorem enableSegment_sound {tame : Bool} {s : State} (seg : Segment) : (enableSegment seg s).Sound tame s :=
  ⟨Reaches.same.then_lines (.setLine _ _ s) (.single (.enable seg)) (by simp [enableSegment]) (by simp [enableSegment])
    (by simp [enableSegment]) (by simp [enableSegment]), by simp [enableSegment, lineStateBytes]⟩

theorem State.disableLine_facts (seg : Segment) (s : State) :
    s.SameDirectory (s.disableLine seg) ∧ (∀ k l, (s.disableLine seg).listing k = some l → s.listing k = some l)
      ∧ (s.disableLine seg).port = s.port ∧ (s.disableLine seg).generation = s.generation
      ∧ (s.disableLine seg).marks = s.marks := by
  unfold State.disableLine
  dsimp only
  split
  · exact ⟨.rfl, fun _ _ h => h, rfl, rfl, rfl⟩
  · split
    · exact ⟨by constructor <;> simp, by simp [State.listing_setListing], by simp, by simp, by simp⟩
    · exact ⟨by constructor <;> simp, by simp [State.listing_setListing], by simp, by simp, by simp⟩

theorem disableSegment_sound {tame : Bool} {s : State} (seg : Segment) : (disableSegment seg s).Sound tame s := by
  obtain ⟨hd, hl, hp, hg, hm⟩ := State.disableLine_facts seg s
  exact ⟨Reaches.same.then_lines hd (.single (.disable seg)) hl hp hg hm, by simp [disableSegment, lineStateBytes]⟩

theorem clearSegmentFlags_sound {tame : Bool} {s : State} (p : Segment × BitVec 6) :
    (clearSegmentFlags p s).Sound tame s :=
  ⟨Reaches.same.then_lines (.setLine _ _ s) (.single (.line _ _ rfl rfl (fun f hf => .inl hf) id))
    (by simp [clearSegmentFlags]) (by simp [clearSegmentFlags]) (by simp [clearSegmentFlags]) (by simp [clearSegmentFlags]),
    by simp [clearSegmentFlags, formatBytes]⟩

end Sys2Proof.Machine
end

section
/-! PROOFS. Every row but COLLECT, the seconds boundary and the resets is one application. -/

namespace Sys2Proof.Machine

/-! ### What the operands of the commands are read to be -/

theorem reserveParams?_tag {ps : List Byte} {p : Addr × Reservation} (h : reserveParams? ps = some p) :
    p.2.tag.length ≤ 8 := by
  unfold reserveParams? at h
  split at h
  · split at h
    · split at h
      · rename_i tag htag
        split at h
        · cases h
        · cases h; exact tagOf?_length htag
      · cases h
    · cases h
  · cases h

theorem fromLe16_le (lo hi : Byte) : fromLe16 lo hi ≤ 65535 := by
  have h1 := lo.isLt
  have h2 := hi.isLt
  unfold fromLe16
  omega

theorem modifyParams?_range {ps : List Byte} {p : Addr × Byte × LeaseChoice × Nat × Tag} (h : modifyParams? ps = some p) :
    (p.2.2.1 = .timed → 10 ≤ p.2.2.2.1 ∧ p.2.2.2.1 ≤ 65535) ∧ p.2.2.2.2.length ≤ 8 := by
  unfold modifyParams? at h
  split at h
  · split at h
    · rename_i htag
      dsimp only at h
      split at h
      · cases h
      · split at h
        · cases h
        · rename_i hn
          cases h
          refine ⟨fun hc => ⟨?_, fromLe16_le _ _⟩, tagOf?_length htag⟩
          exact Nat.le_of_not_lt (fun hlt => hn ⟨hc, hlt⟩)
    · cases h
  · cases h

theorem startParam?_range {ps : List Byte} {w : Nat} (h : startParam? ps = some w) : w ≤ 60 := by
  unfold startParam? at h
  split at h
  · split at h
    · cases h; assumption
    · cases h
  · cases h

theorem openGroupParams?_range {ps : List Byte} {p : GroupNo × Nat × JoinPolicy} (h : openGroupParams? ps = some p) :
    1 ≤ p.2.1 ∧ p.2.1 ≤ 12 := by
  unfold openGroupParams? at h
  split at h
  · split at h
    · split at h
      · cases h; assumption
      · cases h
    · cases h
  · cases h

/-! ### Lines -/

theorem Follows.setLine {tame : Bool} {s0 s : State} {seg : Segment} {c : Controller} (hq : c.queue = (s.line seg).queue)
    (hd : c.line.isDisabled = (s.line seg).line.isDisabled)
    (hr : ∀ f ∈ c.ready, f ∈ (s.line seg).ready ∨ (f.body.length ≤ 40 ∧ sourceOk f.source = true))
    (hl : (s.line seg).Lawful → c.Lawful) : Follows tame s0 s (s.setLine seg c) :=
  .of_lines (.setLine seg c s) (.single (.line seg c hq hd hr hl)) (by simp) (by simp)
    (fun _ l hl => ⟨l, by simpa using hl, rfl⟩) (by simp)

theorem Follows.setFactor {tame : Bool} {s0 s : State} (f : Factor) : Follows tame s0 s (s.setFactor f) :=
  .of_lines (.setFactor f s) (.single (.same (by simp) (by simp))) (by simp) (by simp)
    (fun _ l hl => ⟨l, by simpa using hl, rfl⟩) (by simp)

/-- What an event of a line may do to its controller. -/
structure Controller.MayBecome (c d : Controller) : Prop where
  queue : d.queue = c.queue
  disabled : d.line.isDisabled = c.line.isDisabled
  ready : d.ready = c.ready
  lawful : c.Lawful → d.Lawful

theorem Controller.MayBecome.refl (c : Controller) : c.MayBecome c := ⟨rfl, rfl, rfl, id⟩

theorem Applies.onLine {tame : Bool} {s : State} {seg : Segment} {act : Controller → Controller}
    (h : ∀ c : Controller, c.MayBecome (act c)) : Applies tame s s (s.onLine seg act) := by
  unfold State.onLine
  split
  · exact .still
  · have hc := h (s.line seg)
    exact .of_follows (.setLine hc.queue hc.disabled (by rw [hc.ready]; exact fun f hf => .inl hf) hc.lawful)

/-- A frame begun in a state other than RECEIVING. -/
theorem Controller.Lawful.begin {c : Controller} (h : c.Lawful) (ch : LineChar) (hl : c.line.isFilling = false)
    (hst : c.queue ≠ [] ∨ c.collisions = 0) : ({ c with line := .receiving (c.beginFrame ch), idle := 0 } : Controller).Lawful := by
  obtain ⟨hready, hlen, hcoll, _⟩ := h
  refine ⟨?_, hlen, hcoll, by simpa [Controller.stateLawful] using hst⟩
  rw [hl] at hready
  simp only [LineState.isFilling, Controller.beginFrame, Config.receiveSlots]
  split
  · simpa using hready
  · split
    · by_cases hroom : c.ready.length < 2
      · have hone : ∀ b : Bool, (if b = true then 1 else 0) ≤ 1 := by decide
        exact Nat.add_le_add (Nat.le_of_lt_succ hroom) (hone _)
      · simpa [hroom] using hready
    · simpa using hready

theorem Controller.receive_may (ch : LineChar) (c : Controller) : c.MayBecome (c.receive ch) := by
  unfold Controller.receive
  split
  · rename_i hl
    refine ⟨rfl, by rw [hl]; rfl, rfl, fun h => h.begin ch (by rw [hl]; rfl) (.inr ?_)⟩
    have := h.2.2.2
    simp [Controller.stateLawful, hl] at this
    exact this.2
  · rename_i hl
    refine ⟨rfl, by rw [hl]; rfl, rfl, fun h => h.begin ch (by rw [hl]; rfl) (.inr ?_)⟩
    have := h.2.2.2
    simp [Controller.stateLawful, hl] at this
    exact this.2
  · rename_i hl
    refine ⟨rfl, by rw [hl]; rfl, rfl, fun h => h.begin ch (by rw [hl]; rfl) (.inl ?_)⟩
    have := h.2.2.2
    simp [Controller.stateLawful, hl] at this
    exact this.1
  · rename_i r hl
    refine ⟨rfl, by rw [hl]; rfl, rfl, fun h => ?_⟩
    obtain ⟨hready, hlen, hcoll, hst⟩ := h
    have hf : (r.extend c.format ch).following = r.following := by
      unfold Reception.extend
      split <;> simp [*]
    refine ⟨?_, hlen, hcoll, ?_⟩
    · simpa [hl, LineState.isFilling, hf] using hready
    · simpa [Controller.stateLawful, hl] using hst
  all_goals exact .refl c

theorem Controller.startSending_lawful {c : Controller} (h : c.Lawful) (hq : c.queue ≠ []) : c.startSending.Lawful := by
  obtain ⟨hready, hlen, hcoll, _⟩ := h
  refine ⟨?_, hlen, hcoll, by simpa [Controller.startSending, Controller.stateLawful] using hq⟩
  exact Nat.le_trans (Nat.add_le_add_left (by simp [Controller.startSending, LineState.isFilling]) _) hready

theorem Controller.gapOver_may (c : Controller) : c.MayBecome c.gapOver := by
  unfold Controller.gapOver
  split
  · rename_i hl
    refine ⟨rfl, by rw [hl]; rfl, rfl, fun h => Controller.startSending_lawful h ?_⟩
    have := h.2.2.2
    simp [Controller.stateLawful, hl] at this
    exact this.1
  · rename_i hl
    split
    · refine ⟨rfl, rfl, rfl, fun h => ?_⟩
      obtain ⟨hready, hlen, hcoll, hst⟩ := h
      exact ⟨hready, hlen, hcoll, hst⟩
    · rename_i hq
      exact ⟨rfl, by rw [hl]; rfl, rfl, fun h => Controller.startSending_lawful h (by simpa using hq)⟩
  all_goals exact .refl c

theorem Controller.backoffOver_may (c : Controller) : c.MayBecome c.backoffOver := by
  unfold Controller.backoffOver
  split
  · rename_i hl
    refine ⟨rfl, by rw [hl]; rfl, rfl, fun h => Controller.startSending_lawful h ?_⟩
    have := h.2.2.2
    simp [Controller.stateLawful, hl] at this
    exact this.1
  all_goals exact .refl c

theorem Controller.cutOffDone_may (c : Controller) : c.MayBecome c.cutOffDone := by
  unfold Controller.cutOffDone
  split
  · rename_i hl
    refine ⟨rfl, (restState_disabled _).trans (by rw [hl]; rfl), rfl, fun h => ?_⟩
    obtain ⟨hready, hlen, hcoll, hst⟩ := h
    simp [Controller.stateLawful, hl] at hst
    refine ⟨?_, hlen, hcoll, restState_lawful rfl hst.2⟩
    simp only [restState_filling]
    exact Nat.le_trans (Nat.add_le_add_left (Nat.zero_le _) _) hready
  all_goals exact .refl c

/-- A frame that passes the checks is within its lengths (R161). -/
theorem checkFrame_good {r : Reception} {f : Frame} (h : checkFrame r = .good f) :
    f.body.length ≤ 40 ∧ sourceOk f.source = true := by
  unfold checkFrame at h
  split at h
  · cases h
  · split at h
    · cases h
    · rename_i hlen
      dsimp only at h
      split at h
      · cases h
      · split at h
        · cases h
        · rename_i hsource
          cases h
          simp only [lengthConsistent, Bool.not_eq_true', decide_eq_false_iff_not, Classical.not_not] at hlen
          refine ⟨?_, by simpa using hsource⟩
          simp only [List.length_drop, List.length_take]
          omega

/-- What the end of a frame does to the controller (R158 to R161). -/
theorem Controller.decideFrame_facts (r : Reception) (c : Controller) :
    (c.decideFrame r).queue = c.queue ∧ (c.decideFrame r).collisions = c.collisions
      ∧ ((c.decideFrame r).ready = c.ready
        ∨ ∃ f, (c.decideFrame r).ready = c.ready ++ [f] ∧ checkFrame r = .good f ∧ r.following = .stored) := by
  unfold Controller.decideFrame
  split
  · split
    · rename_i hf _ f hg; exact ⟨rfl, rfl, .inr ⟨f, rfl, hg, hf⟩⟩
    · exact ⟨rfl, rfl, .inl rfl⟩
  all_goals exact ⟨rfl, rfl, .inl rfl⟩

theorem Controller.afterFrame_disabled (c : Controller) : c.afterFrame.isDisabled = false := by
  unfold Controller.afterFrame
  split
  · rfl
  · exact restState_disabled _

theorem Controller.leaveReceiving_lawful {c d : Controller} {r : Reception} (h : c.Lawful) (hl : c.line = .receiving r)
    (hd : d = c.decideFrame r) : d.leaveReceiving.Lawful := by
  obtain ⟨hq, hc, hr⟩ := Controller.decideFrame_facts r c
  rw [← hd] at hq hc hr
  obtain ⟨hready, hlen, hcoll, hst⟩ := h
  simp only [Controller.stateLawful, hl] at hst
  have hfill : d.leaveReceiving.line.isFilling = false := by
    simp only [Controller.leaveReceiving, Controller.afterFrame]
    split
    · rfl
    · exact restState_filling _
  refine ⟨?_, by simpa [Controller.leaveReceiving, hq] using hlen, by simpa [Controller.leaveReceiving, hc] using hcoll, ?_⟩
  · rw [hfill]
    rw [hl] at hready
    rcases hr with hr | ⟨f, hr, _, hf⟩
    · simp only [Controller.leaveReceiving, hr]
      simpa using Nat.le_of_add_right_le hready
    · simp only [Controller.leaveReceiving, hr]
      simpa [LineState.isFilling, hf] using hready
  · by_cases hz : d.collisions = 0
    · refine restState_lawful ?_ hz
      simp [Controller.leaveReceiving, Controller.afterFrame, hz]
    · rw [hc] at hz
      simp only [hz, decide_false, Bool.or_false] at hst
      simp [Controller.stateLawful, Controller.leaveReceiving, Controller.afterFrame, hc, hz, hq]
      simpa using hst

theorem Applies.frameEnd {tame : Bool} {s : State} (seg : Segment) : Applies tame s s (s.frameEnd seg) := by
  unfold State.frameEnd
  split
  · rename_i r hl
    obtain ⟨hq, hc, hr⟩ := Controller.decideFrame_facts r (s.line seg)
    have hset : Follows tame s s (s.setLine seg ((s.line seg).decideFrame r).leaveReceiving) := by
      refine .setLine hq ?_ (fun f hf => ?_) (fun h => Controller.leaveReceiving_lawful h hl rfl)
      · rw [hl]; exact Controller.afterFrame_disabled _
      · have hf : f ∈ ((s.line seg).decideFrame r).ready := hf
        rcases hr with hr | ⟨g, hr, hg, _⟩
        · rw [hr] at hf; exact .inl hf
        · rw [hr] at hf
          rcases List.mem_append.mp hf with hf | hf
          · exact .inl hf
          · rw [List.mem_singleton] at hf; subst hf; exact .inr (checkFrame_good hg)
    dsimp only
    split
    · exact .of_follows (hset.trans (.setFactor _))
    · exact .of_follows hset
  all_goals exact .still

theorem Follows.gone {tame : Bool} {s0 s : State} {seg : Segment} {f : QueuedFrame} {q : List QueuedFrame}
    (hl : (s.line seg).line = .transmitting false) (hq : (s.line seg).queue = f :: q) :
    Follows tame s0 s ((s.setLine seg ((s.line seg).headGone q)).reportSendEnd seg f) :=
  .of_lines ((State.SameDirectory.setLine seg _ s).trans (.reportSendEnd seg f _)) (.single (.gone seg f q hl hq))
    (by unfold State.reportSendEnd State.sendEnd; split <;> (try split) <;> simp)
    (by unfold State.reportSendEnd State.sendEnd; split <;> (try split) <;> simp)
    (fun k l hl => by
      obtain ⟨m, hm, _, hr⟩ := State.listing_reportSendEnd hl
      exact ⟨m, by simpa using hm, hr⟩)
    (by unfold State.reportSendEnd State.sendEnd; split <;> (try split) <;> simp)

theorem Applies.frameSent {tame : Bool} {s : State} (seg : Segment) : Applies tame s s (s.frameSent seg) := by
  unfold State.frameSent
  split
  · rename_i hl hq; exact .of_follows (.gone hl hq)
  · exact .still

theorem Applies.readBack {tame : Bool} {s : State} (seg : Segment) (n : Nat) (ch : LineChar) :
    Applies tame s s (s.readBack seg n ch) := by
  unfold State.readBack
  split
  · rename_i f q hl hq
    split
    · split
      · unfold State.collide
        dsimp only
        split
        · rename_i hc
          refine .of_follows (.setLine rfl (by rw [hl]; rfl) (fun g hg => .inl hg) (fun h => ?_))
          obtain ⟨hready, hlen, _, _⟩ := h
          refine ⟨?_, hlen, ?_, ?_⟩
          · exact Nat.le_trans (Nat.add_le_add_left (by simp [LineState.isFilling]) _) hready
          · simp only [Config.lastCollision] at hc; dsimp only; omega
          · simp [Controller.stateLawful, hq]
        · exact .of_follows ((Follows.gone hl hq).trans (.setFactor _))
      · exact .still
    · exact .still
  · exact .still

theorem Applies.ackTimeout {tame : Bool} {s : State} (seg : Segment) : Applies tame s s (s.ackTimeout seg) := by
  unfold State.ackTimeout
  split
  · exact .still
  · rename_i l hl
    split
    · exact .still
    · rename_i n ht
      split
      · rename_i hs
        refine .of_follows (.sendListing (fun m hm => ?_) (fun h1 h2 => ?_) (fun hf => ?_) (fun hr => hr seg l hl))
        · rw [hl] at hm; cases hm; rw [ht]; exact nofun
        · obtain ⟨hen, hrange, _⟩ := ((State.listingsLawful_iff s).mp h2).1 seg |>.running l hl
          obtain ⟨_, _, hrest⟩ := hrange
          simp only [Config.listingSends] at hs
          exact ⟨⟨Nat.succ_le_succ (Nat.zero_le _), by dsimp only; omega, hrest⟩, hen⟩
        · exact (((State.framesFit_iff s).mp hf).2.2 seg).entries l hl
      · exact .of_follows ((Follows.endListing seg).trans (.setFactor _))

/-! ### The port -/

theorem Follows.setPort {tame : Bool} {s0 s : State} {p : Port}
    (h : s.port.state.fits = true → p.state.fits = true) : Follows tame s0 s (s.setPort p) :=
  .of_lines (.setPort p s) (.single (.same (by simp) (by simp))) (by simp) (by simp)
    (fun _ l hl => ⟨l, by simpa using hl, rfl⟩) (fun _ => by simpa using h)

theorem Applies.exchange {tame : Bool} {s : State} {kind : ExchangeKind} {finish : Byte → List Byte → State → State}
    (h : ∀ b m, Follows tame s s (finish b m s)) (edge : ExchangeEdge) : Applies tame s s (s.exchange kind finish edge) := by
  unfold State.exchange
  split
  · exact .still
  · split
    · unfold State.beginExchange
      split
      · exact .of_follows (.setPort id)
      · exact .still
    · split
      · split
        · exact .of_follows (h _ _)
        · exact .still
      · exact .still

theorem Follows.fetchReply {tame : Bool} {s0 s : State} (b : Byte) (m : List Byte) :
    Follows tame s0 s (s.fetchReply b m) := by
  unfold State.fetchReply
  split
  · rename_i r hr
    split
    · refine .setPort (fun h => ?_)
      dsimp only
      split
      · rfl
      · rw [hr] at h; exact h
    · exact .setPort id
  all_goals exact .setPort id

theorem commandOf?_length {m : List Byte} {c : Byte} {ps : List Byte} (h : commandOf? m = some (c, ps)) : ps.length ≤ 32 := by
  unfold commandOf? at h
  split at h
  · split at h
    · rename_i hc
      cases h
      simp only [List.length_take]
      omega
    · cases h
  · cases h

theorem Follows.commandEnd {tame : Bool} {s0 s : State} (b : Byte) (m : List Byte) :
    Follows tame s0 s (s.commandEnd b m) := by
  unfold State.commandEnd
  dsimp only
  split
  · exact .setPort id
  all_goals
    split
    · rename_i c ps hc
      exact .setPort (fun _ => by simpa [PortState.fits] using commandOf?_length hc)
    · exact .setPort id

/-! ### Timers -/

theorem Applies.of_reaches {tame : Bool} {s0 s x : State} {g : List Addr} (h : Reaches tame s0 s x g) :
    Applies tame s0 s (commit s g x) := ⟨x, g, h, .still⟩

theorem Applies.lapseOffer {tame : Bool} {s0 s : State} (a : Addr) : Applies tame s0 s (s.lapseOffer a) := by
  unfold State.lapseOffer
  split
  · rename_i h o r hb
    split
    · exact .of_reaches (.of_units (.returnOffer (.self (by rw [hb]; rfl)) o .lapse true)
        (.returnOffer h o .lapse true a s) (.none _ _))
    · exact .still
  all_goals exact .still

theorem Applies.expireLease {tame : Bool} {s0 s : State} (a : Addr) : Applies tame s0 s (s.expireLease a) := by
  unfold State.expireLease
  split
  · rename_i h g r v p hb
    split
    · exact .of_reaches (.of_units (.giveUp (.self (by rw [hb]; rfl)) (.timed g r) v true)
        (.giveUp h (.timed g r) v true a s) (.none _ _))
    · exact .still
  all_goals exact .still

theorem Applies.expireHold {tame : Bool} {s0 s : State} (a : Addr) : Applies tame s0 s (s.expireHold a) := by
  unfold State.expireHold
  split
  · split
    · exact .of_reaches (.of_units (.goFree .holdExpiry a s) (.goFree .holdExpiry a s) (.none _ _))
    · exact .still
  all_goals exact .still

theorem Applies.expireContest {tame : Bool} {s0 s : State} (a : Addr) : Applies tame s0 s (s.expireContest a) := by
  unfold State.expireContest
  split
  · rename_i h l v p c r hb
    split
    · exact .of_reaches ((Reaches.keepIncumbent hb).sendVacate _ _ _ _)
    · exact .still
  all_goals exact .still

theorem Applies.expireBinding {tame : Bool} {s0 s : State} (a : Addr) : Applies tame s0 s (s.expireBinding a) := by
  unfold State.expireBinding
  split
  · exact .lapseOffer a
  · exact .expireLease a
  · exact .expireHold a
  · exact .expireContest a
  all_goals exact .still

/-- Steps of the admission queue and the phase that reach no binding. -/
theorem Follows.of_records {tame : Bool} {s0 s t : State} (he : Edits tame s0.RepliesShort s t)
    (hl : ∀ k, t.line k = s.line k) (hi : ∀ k, t.listing k = s.listing k) (hb : ∀ a, t.binding a = s.binding a)
    (hg : ∀ g, t.group g = s.group g) (hgen : t.generation = s.generation) (hm : t.marks = s.marks)
    (hp : t.port = s.port) (hr : t.phase.isStopped = true → s.phase.isStopped = true) : Follows tame s0 s t where
  edits := he
  lines := .single (.same hl hi)
  record a := by rw [hb]
  lease a _ _ _ p h := ⟨p, (hb a).trans h⟩
  group := hg
  generation := hgen
  marks := hm
  requesters hs k l h := by
    obtain ⟨hrun, hbound⟩ := hs k l (by rw [← hi]; exact h)
    refine ⟨?_, by rw [hb]; exact hbound⟩
    cases hst : t.phase.isStopped with
    | false => rfl
    | true => rw [hr hst] at hrun; cases hrun
  port _ h := by rw [hp]; exact h

theorem Follows.expireWait {tame : Bool} {s0 s : State} (x : Identity) : Follows tame s0 s (s.expireWait x) :=
  .of_records (.expireWait x s) (fun k => by cases k <;> rfl) (fun k => by cases k <;> rfl) (fun _ => rfl) (fun _ => rfl)
    rfl rfl rfl id

theorem Follows.expireWaits {tame : Bool} {s0 s : State} : Follows tame s0 s s.expireWaits :=
  .of_records (.expireWaits s) (fun k => by cases k <;> rfl) (fun k => by cases k <;> rfl) (fun _ => rfl) (fun _ => rfl)
    rfl rfl rfl id

theorem Follows.expireRecall {tame : Bool} {s0 s : State} : Follows tame s0 s s.expireRecall := by
  refine .of_records (.expireRecall s) ?_ ?_ ?_ ?_ ?_ ?_ ?_ ?_ <;> unfold State.expireRecall
  case refine_8 =>
    split
    · split
      · exact nofun
      · exact id
    all_goals exact id
  all_goals
    (repeat' split) <;> intros <;> rfl

theorem Applies.atAddress {tame : Bool} {s : State} {act : Addr → State → State} (h : ∀ a, Applies tame s s (act a s))
    (b : Byte) : Applies tame s s (s.atAddress act b) := by
  unfold State.atAddress
  split
  · split
    · exact h _
    · exact .still
  · exact .still

/-! ### Listings, unknown kinds and the end of a reset -/

theorem Applies.serveList {tame : Bool} {s0 s : State} {seg : Segment} {f : Frame} (hs : s0.Took s seg) :
    Applies tame s0 s (s.serveList seg f) := by
  unfold State.serveList
  split
  · exact .turnAway seg f _
  · rename_i a ha
    refine .serveAddressed hs (fun x _ => runList_sound seg a x) (fun x _ hok => ?_)
    have hfree : s.listing seg = none ∧ (s.binding a).isBound = true := by
      unfold runList at hok
      cases hb : s.binding a with
      | bound h l v p =>
        simp only [hb] at hok
        cases hl : s.listing seg with
        | none => exact ⟨rfl, rfl⟩
        | some l => simp only [hl] at hok; cases hok
      | free | reserved _ | offered _ _ _ | held _ _ | contested _ _ _ _ _ _ => simp only [hb] at hok; cases hok
    have hrun : ∃ rest status, runList seg a x s = { state := s, status := status, rest := rest } := by
      unfold runList
      split
      · split
        · exact ⟨_, _, rfl⟩
        · exact ⟨_, _, rfl⟩
      all_goals exact ⟨_, _, rfl⟩
    obtain ⟨rest, status, hrun⟩ := hrun
    rw [hrun, State.deliverCached_same]
    have hd := ((State.line_handReply seg seg (replyTo f status rest)
      (s.cacheReply a ⟨f.sequence, replyKind f.kind, status, rest⟩)).awaited rfl).2
    refine .startListing _ _ ?_ (fun h => ?_) (by omega) (by omega) ?_ ?_
    · simpa using hfree.1
    · simpa [State.enabled, hd] using hs.enabled h
    · simpa using hs.running
    · simpa using hfree.2

theorem Applies.serveListAck {tame : Bool} {s0 s : State} {seg : Segment} {f : Frame} (hs : s0.Took s seg) :
    Applies tame s0 s (s.serveListAck seg f) := by
  unfold State.serveListAck
  split
  · exact .turnAway seg f _
  · split
    · rename_i hb; exact .of_follows (.acknowledge f.body hs hb)
    · exact .unknown seg f _

theorem Applies.serveUnknownKind {tame : Bool} {s0 s : State} {seg : Segment} {f : Frame} :
    Applies tame s0 s (s.serveUnknownKind seg f) := by
  unfold State.serveUnknownKind
  split
  · exact .unknown seg f _
  · exact .still

theorem Applies.endReset {tame : Bool} {s : State} : Applies tame s s s.endReset := by
  unfold State.endReset
  split
  · exact .of_follows (.of_records (.one (.same (by constructor <;> intros <;> rfl))) (fun k => by cases k <;> rfl)
      (fun k => by cases k <;> rfl) (fun _ => rfl) (fun _ => rfl) rfl rfl rfl id)
  · exact .still

end Sys2Proof.Machine
end

section
/-! PROOFS. Every row but COLLECT, the seconds boundary and the resets is one application; the boundary is a chain of
them. -/

namespace Sys2Proof

/-- The rows that may give an identity a standing it had not, or bar it. -/
def Instr.introduces : Instr → Bool
  | .ask _ | .claim _ | .reserve | .approve | .bar | .deny => true
  | _ => false

/-- The rows that are not one application each: COLLECT edits the change set, the seconds boundary is an application for
each expiry outstanding, and a reset is none. -/
def Instr.special : Instr → Bool
  | .collect | .secondsBoundary | .powerOnReset | .pinReset => true
  | _ => false

end Sys2Proof

namespace Sys2Proof.Machine

theorem Applies.unlessReset {tame : Bool} {s t : State} (h : Applies tame s s t) :
    Applies tame s s (if s.inReset.isSome then s else t) := by
  split
  · exact .still
  · exact h

/-- A command whose operands were read. -/
theorem Applies.runParams {tame : Bool} {s : State} {ok : Byte → Bool} {α : Type} {parse : List Byte → Option α}
    {run : α → State → HostAnswer} (h : ∀ ps x, parse ps = some x → (run x s).Sound tame s) :
    Applies tame s s (s.runCommand ok (withParams parse run)) := .runCommand (.withParams h)

theorem Applies.runBound {tame : Bool} {s : State} {ok : Byte → Bool} {α : Type} {parse : List Byte → Option α}
    {run : Segment → Addr → α → State → Answer} {seg : Segment}
    (h : ∀ t a bs x, s.Took t seg → parse bs = some x → (run seg a x t).Sound tame s t) :
    Applies tame s s (s.takeFrame ok seg (State.serveBound parse run seg)) :=
  .takeFrame (fun _ t ht => .serveBound ht (fun a x hx => h t a _ x ht hx))

theorem Applies.runEither {tame : Bool} {s : State} {ok : Byte → Bool} {α : Type} {parse : List Byte → Option α}
    {run : α → State → Answer} {seg : Segment} (h : ∀ t x, s.Took t seg → (run x t).Sound tame s t) :
    Applies tame s s (s.takeFrame ok seg (State.serveEither parse run seg)) :=
  .takeFrame (fun _ t ht => .serveEither ht (fun x _ => h t x ht))

theorem Applies.whileTimersRun {tame : Bool} {s t : State} (h : Applies tame s s t) :
    Applies tame s s (if s.timersRun then t else s) := by
  split
  · exact h
  · exact .still

/-- Every row that is not special is one application, and a tame one where it introduces no identity. -/
theorem exec_applies {c : Instr} {s t : State} (hc : c.special = false) (h : exec c s = .next t) :
    Applies (!c.introduces) s s t := by
  cases c
  case collect | secondsBoundary | powerOnReset | pinReset => cases hc
  all_goals cases h
  case ask seg => exact .takeFrame (fun _ _ _ => .serveUnaddressed (fun x hx => runAsk_sound seg (askBody?_tag hx)))
  case take seg => exact .takeFrame (fun _ _ _ => .serveUnaddressed (fun x _ => runTake_sound seg x))
  case claim seg => exact .takeFrame (fun _ _ _ => .serveClaimant (fun a x _ => runClaim_sound seg a x))
  case renew seg => exact .runBound (fun _ a _ x _ _ => runRenew_sound seg a x)
  case release seg => exact .runBound (fun _ a _ x _ _ => runRelease_sound seg a x)
  case retag seg => exact .runBound (fun _ a _ _ _ hx => runRetag_sound seg a (tagOf?_length hx))
  case resolve seg => exact .runEither (fun _ x _ => runResolve_sound x)
  case reverse seg => exact .runEither (fun _ x ht => runReverse_sound ht.short x)
  case find seg => exact .runBound (fun _ a _ x _ _ => runFind_sound seg a x)
  case list seg => exact .takeFrame (fun _ _ ht => .serveList ht)
  case listAck seg => exact .takeFrame (fun _ _ ht => .serveListAck ht)
  case join seg => exact .runBound (fun _ a _ x _ _ => groupRequest_sound seg a x (joinGroup_facts a x) (fun _ hb => .joinGroup x hb))
  case leave seg => exact .runBound (fun _ a _ x _ _ => groupRequest_sound seg a x (leaveGroup_facts a x) (fun _ _ => .leaveGroup a x _))
  case members seg => exact .runEither (fun _ x ht => runMembers_sound ht.short x)
  case unknownKindFrame seg => exact .takeFrame (fun _ _ _ => .serveUnknownKind)
  case offerLapse b => exact .atAddress (fun a => .lapseOffer a) b
  case leaseExpiry b => exact .atAddress (fun a => .expireLease a) b
  case holdExpiry b => exact .atAddress (fun a => .expireHold a) b
  case contestExpiry b => exact .atAddress (fun a => .expireContest a) b
  case admissionWaitExpiry x => exact .whileTimersRun (.of_follows (.expireWait x))
  case recallWindowExpiry => exact .whileTimersRun (.of_follows .expireRecall)
  case ackTimerExpiry seg => exact .unlessReset (.ackTimeout seg)
  case characterReceived seg ch => exact .onLine (Controller.receive_may ch)
  case frameEnd seg => exact .unlessReset (.frameEnd seg)
  case transmissionStart seg => exact .onLine Controller.gapOver_may
  case backoffExpiry seg => exact .onLine Controller.backoffOver_may
  case collision seg n ch => exact .unlessReset (.readBack seg n ch)
  case frameSent seg => exact .unlessReset (.frameSent seg)
  case headFrameCutOff seg => exact .onLine Controller.cutOffDone_may
  case statusRead edge => exact .exchange (finish := State.statusRead) (fun _ _ => .setPort id) edge
  case fetch edge => exact .exchange .fetchReply edge
  case commandFrame edge => exact .exchange .commandEnd edge
  case unknownCommand => exact .runCommand (fun _ => .failed _)
  case configureSegment => exact .runParams (fun _ x _ => configureSegment_sound x)
  case enableSegment => exact .runParams (fun _ x _ => enableSegment_sound x)
  case disableSegment => exact .runParams (fun _ x _ => disableSegment_sound x)
  case clearSegmentFlags => exact .runParams (fun _ x _ => clearSegmentFlags_sound x)
  case stop => exact .runParams (fun _ x _ => stopDirectory_sound x)
  case clear => exact .runParams (fun _ x _ => clearDirectory_sound x)
  case readRecord => exact .runParams (fun _ x _ => readRecord_sound x)
  case findIdentity => exact .runParams (fun _ x _ => findIdentity_sound x)
  case unreserve => exact .runParams (fun _ x _ => unreserveAddress_sound x)
  case evict => exact .runParams (fun _ x _ => evictAddress_sound x)
  case resolveContest => exact .runParams (fun _ x _ => resolveContest_sound x)
  case readAdmission => exact .runParams (fun _ x _ => readAdmission_sound x)
  case approve => exact .runParams (fun _ x _ => approve_sound x)
  case deny => exact .runParams (fun _ x _ => deny_sound x)
  case bar => exact .runParams (fun _ x _ => barIdentity_sound x)
  case unbar => exact .runParams (fun _ x _ => unbar_sound x)
  case readBarred => exact .runParams (fun _ x _ => readBarred_sound x)
  case closeGroup => exact .runParams (fun _ x _ => closeGroup_sound x)
  case addMember => exact .runParams (fun _ x _ => addMember_sound x)
  case removeMember => exact .runParams (fun _ x _ => removeMemberOf_sound x)
  case readGroup => exact .runParams (fun _ x _ => readGroup_sound x)
  case readFactors => exact .runParams (fun _ x _ => readFactors_sound x)
  case clearFactors => exact .runParams (fun _ x _ => clearFactors_sound x)
  case setEnables => exact .runParams (fun _ x _ => setEnables_sound x)
  case readStatus => exact .runParams (fun _ x _ => readStatus_sound x)
  case setPolicy => exact .runCommand setPolicy_sound
  case start => exact .runParams (fun _ _ hx => startDirectory_sound (startParam?_range hx))
  case reserve => exact .runParams (fun _ _ hx => reserveAddress_sound (reserveParams?_tag hx))
  case modify => exact .runParams (fun _ _ hx => modifyAddress_sound (modifyParams?_range hx).1 (modifyParams?_range hx).2)
  case openGroup => exact .runParams (fun _ _ hx => openGroup_sound (openGroupParams?_range hx))
  case resetEnd => exact .endReset

end Sys2Proof.Machine
end

section
/-! PROOFS. COLLECT, the seconds boundary and the resets; and with them what every step keeps of the directory, of the lines
and of the frames. -/

namespace Sys2Proof.Machine

/-! ### COLLECT -/

/-- The reply of COLLECT is stored, and the marks it reports leave the change set. -/
theorem collect_completed (u : Unit) (s : State) :
    s.complete (collect u s) = ({ s with marks := s.marks.drop Config.collectMarks } : State).replied .done
      (collect u s).data := by
  unfold collect
  dsimp only
  rw [State.complete_eq, commit_quiet]
  all_goals exact fun _ => rfl

theorem collect_short (u : Unit) (s : State) : (collect u s).data.length ≤ 61 := by
  have : (s.marks.take Config.collectMarks).length ≤ 32 := List.length_take_le _ _
  simp only [collect, List.length_append, List.length_map, List.length_cons, List.length_nil]
  omega

/-- COLLECT touches the change set and the port alone. -/
theorem exec_collect {s t : State} (h : exec .collect s = .next t) :
    t = s ∨ ∃ p : Port, p.state.fits = true ∧ (t = s.setPort p
      ∨ t = ({ s with marks := s.marks.drop Config.collectMarks } : State).setPort p) := by
  have hrun : t = s.runCommand (isCode codeCollect) (withParams noParams? collect) := by cases h; rfl
  rw [hrun]
  unfold State.runCommand
  split
  · exact .inl rfl
  · split
    · split
      · unfold withParams
        split
        · rename_i u _
          refine .inr ⟨_, ?_, .inr (collect_completed u s)⟩
          simpa [PortState.fits] using collect_short u s
        · exact .inr ⟨_, rfl, .inl (State.complete_failed _ s)⟩
      · exact .inl rfl
    all_goals exact .inl rfl

theorem Edits.collect {tame : Bool} {short : Prop} {s t : State} (h : exec .collect s = .next t) : Edits tame short s t := by
  obtain rfl | ⟨p, _, rfl | rfl⟩ := exec_collect h
  · exact .refl
  · exact .one (.same (.setPort p s))
  · exact .one (.same (by constructor <;> intros <;> rfl))

/-! ### The seconds boundary -/

/-- Applications one after another, in a chain that began at `s0`. -/
abbrev Applications (s0 : State) : State → State → Prop := Chain (Applies true s0)

theorem Applications.expireBindings {s0 : State} (l : List Addr) (s : State) : Applications s0 s (s.expireBindings l) := by
  induction l generalizing s with
  | nil => exact .refl
  | cons a l ih => rw [State.expireBindings_cons]; exact (ih _).head (.expireBinding a)

theorem Applications.settleDue {s0 : State} (s : State) : Applications s0 s s.settleDue := by
  rw [State.settleDue_eq]
  exact ((Applications.expireBindings allAddrs s).tail (.of_follows .expireWaits)).tail (.of_follows .expireRecall)

theorem Applications.lines {s0 s t : State} (h : Applications s0 s t) : LineEdits s0 s t := by
  induction h with
  | refl => exact .refl
  | tail _ h ih => exact ih.trans h.lines

theorem Applications.requesters {s0 s t : State} (h : Applications s0 s t) (hs : s.RequestersStand) : t.RequestersStand := by
  induction h with
  | refl => exact hs
  | tail _ h ih => exact h.requesters ih

theorem Applications.port {s0 s t : State} (h : Applications s0 s t) (h0 : s0.RepliesShort)
    (hs : s.port.state.fits = true) : t.port.state.fits = true := by
  induction h with
  | refl => exact hs
  | tail _ h ih => exact h.port h0 ih

theorem Binding.isBound_tick (b : Binding) : b.tick.isBound = b.isBound := by cases b <;> rfl

/-- A second that passes, and the bookkeeping of the new boundary, touch neither the lines nor the port, and leave the
requesters as they were. -/
theorem State.openBoundary_tick_facts (s : State) :
    (∀ k, s.openBoundary.tick.line k = s.line k) ∧ (∀ k, s.openBoundary.tick.listing k = s.listing k)
      ∧ s.openBoundary.tick.port = s.port ∧ (s.RequestersStand → s.openBoundary.tick.RequestersStand) := by
  refine ⟨fun k => by cases k <;> rfl, fun k => by cases k <;> rfl, rfl, fun h seg l hl => ?_⟩
  obtain ⟨hp, hb⟩ := h seg l (by cases seg <;> exact hl)
  refine ⟨?_, ?_⟩
  · show s.phase.tick.isStopped = false
    rw [Phase.isStopped_tick]; exact hp
  · rw [State.binding_tick, Binding.isBound_tick]; exact hb

/-- The boundary is idle, opens a new boundary, or settles what is due before a second passes. -/
theorem State.secondsBoundary_cases (s : State) :
    s.secondsBoundary = s ∨ s.secondsBoundary = s.openBoundary ∨ s.secondsBoundary = s.settleDue.openBoundary.tick := by
  unfold State.secondsBoundary
  split
  · exact .inl rfl
  · split
    · exact .inr (.inl rfl)
    · exact .inr (.inr rfl)

theorem LineEdits.secondsBoundary {s0 : State} (s : State) : LineEdits s0 s s.secondsBoundary := by
  obtain h | h | h := s.secondsBoundary_cases
  · rw [h]
  · rw [h]; exact .single (.same (fun k => by cases k <;> rfl) (fun k => by cases k <;> rfl))
  · rw [h]
    obtain ⟨hl, hi, _⟩ := s.settleDue.openBoundary_tick_facts
    exact (Applications.settleDue s).lines.tail (.same hl hi)

theorem State.requesters_secondsBoundary {s : State} (hs : s.RequestersStand) : s.secondsBoundary.RequestersStand := by
  obtain h | h | h := s.secondsBoundary_cases <;> rw [h]
  · exact hs
  · exact hs
  · exact s.settleDue.openBoundary_tick_facts.2.2.2 ((Applications.settleDue s (s0 := s)).requesters hs)

theorem State.port_secondsBoundary {s : State} (h0 : s.RepliesShort) (hs : s.port.state.fits = true) :
    s.secondsBoundary.port.state.fits = true := by
  obtain h | h | h := s.secondsBoundary_cases <;> rw [h]
  · exact hs
  · exact hs
  · rw [s.settleDue.openBoundary_tick_facts.2.2.1]
    exact (Applications.settleDue s).port h0 hs

/-! ### Every row -/

theorem State.SameDirectory.beginReset (c : ResetCause) (s : State) : State.reset.SameDirectory (s.beginReset c) := by
  constructor <;> intros <;> rfl

/-- A row is one application, or COLLECT, or the seconds boundary, or a reset. -/
theorem Instr.special_cases {c : Instr} (s : State) (h : c.special = true) :
    c = .collect ∨ c = .secondsBoundary
      ∨ ∃ k, (c = .powerOnReset ∨ c = .pinReset) ∧ exec c s = .next (s.beginReset k) := by
  cases c
  case collect => exact .inl rfl
  case secondsBoundary => exact .inr (.inl rfl)
  case powerOnReset => exact .inr (.inr ⟨.powerOn, .inl rfl, rfl⟩)
  case pinReset => exact .inr (.inr ⟨.pin, .inr rfl, rfl⟩)
  all_goals cases h

/-- Every row is a chain of edits of the directory, tame ones unless it introduces an identity. -/
theorem exec_edits {c : Instr} {s t : State} (h : exec c s = .next t) : Edits (!c.introduces) s.RepliesShort s t := by
  cases hc : c.special with
  | false => exact (exec_applies hc h).edits
  | true =>
    obtain rfl | rfl | ⟨k, _, hk⟩ := Instr.special_cases s hc
    · exact .collect h
    · cases h; exact .secondsBoundary s
    · rw [hk] at h; cases h; exact .one (.reset (.beginReset k s))

/-- Every row is a chain of edits of the lines. -/
theorem exec_lines {c : Instr} {s t : State} (h : exec c s = .next t) : LineEdits s s t := by
  cases hc : c.special with
  | false => exact (exec_applies hc h).lines
  | true =>
    obtain rfl | rfl | ⟨k, _, hk⟩ := Instr.special_cases s hc
    · obtain rfl | ⟨p, _, rfl | rfl⟩ := exec_collect h
      · exact .refl
      all_goals exact .single (.same (fun k => by cases k <;> rfl) (fun k => by cases k <;> rfl))
    · cases h; exact .secondsBoundary s
    · rw [hk] at h; cases h
      exact .single (.reset (fun k => by cases k <;> rfl) (fun k => by cases k <;> rfl))

theorem exec_requesters {c : Instr} {s t : State} (h : exec c s = .next t) (hs : s.RequestersStand) : t.RequestersStand := by
  cases hc : c.special with
  | false => exact (exec_applies hc h).requesters hs
  | true =>
    obtain rfl | rfl | ⟨k, _, hk⟩ := Instr.special_cases s hc
    · obtain rfl | ⟨p, _, rfl | rfl⟩ := exec_collect h
      · exact hs
      all_goals exact fun k l hl => hs k l (by cases k <;> exact hl)
    · cases h; exact State.requesters_secondsBoundary hs
    · rw [hk] at h; cases h
      exact fun k l hl => by cases k <;> cases hl

theorem exec_port {c : Instr} {s t : State} (h : exec c s = .next t) (h0 : s.RepliesShort)
    (hs : s.port.state.fits = true) : t.port.state.fits = true := by
  cases hc : c.special with
  | false => exact (exec_applies hc h).port h0 hs
  | true =>
    obtain rfl | rfl | ⟨k, _, hk⟩ := Instr.special_cases s hc
    · obtain rfl | ⟨p, hp, rfl | rfl⟩ := exec_collect h
      · exact hs
      all_goals exact hp
    · cases h; exact State.port_secondsBoundary h0 hs
    · rw [hk] at h; cases h; rfl

/-! ### Every step -/

/-- A law that does not speak of the queue of commands, and that every row keeps, every step keeps. -/
theorem step_keeps {P : State → Prop} (hp : ∀ s rest, P s → P { s with pending := rest })
    (h : ∀ {c s t}, exec c s = .next t → P s → P t) {s t : State} (hs : P s) (ht : step s = .next t) : P t := by
  unfold step at ht
  split at ht
  · cases ht; exact hs
  · exact h ht (hp s _ hs)

/-- Settles O53: every edit keeps the queues. -/
theorem stepKeepsTheQueues : Obligations.StepKeepsTheQueues := by
  intro s t
  exact step_keeps (fun _ _ h => h) (fun h => (exec_edits h).keep Edit.queues)

/-- Settles O55: every edit keeps the offers within their limit and the counts within their ranges. -/
theorem stepKeepsOffersAndCounts : Obligations.StepKeepsOffersAndCounts :=
  ⟨fun _ _ => step_keeps (fun _ _ h => h) (fun h => (exec_edits h).keep Edit.offersLimited),
    fun _ _ => step_keeps (fun _ _ h => h) (fun h => (exec_edits h).keep Edit.countsLawful)⟩

/-- Settles O56: every edit keeps the account of the pool, and with the queues the members in bindings that may belong. -/
theorem stepKeepsThePoolAndMembers : Obligations.StepKeepsThePoolAndMembers := by
  intro s t hq hp hm ht
  have hrow : ∀ {c s t}, exec c s = .next t → s.QueuesAgree ∧ s.MembersStand → t.QueuesAgree ∧ t.MembersStand :=
    fun h => (exec_edits h).keep (P := fun s => s.QueuesAgree ∧ s.MembersStand)
      (fun e ⟨hq, hm⟩ => ⟨e.queues hq, e.membersStand hq hm⟩)
  exact ⟨step_keeps (fun _ _ h => h) (fun h => (exec_edits h).keep Edit.poolAccounts) hp ht,
    (step_keeps (P := fun s => s.QueuesAgree ∧ s.MembersStand) (fun _ _ h => h) hrow ⟨hq, hm⟩ ht).2⟩

theorem State.linesLawful_iff (s : State) : s.LinesLawful ↔ ∀ k, (s.line k).Lawful :=
  ⟨fun h k => h k (by cases k <;> simp), fun h k _ => h k⟩

/-- What every edit of the lines keeps, a chain of them keeps. -/
theorem LineEdits.keep {s0 : State} {P : State → Prop} (hP : ∀ {s t}, LineEdit s0 s t → P s → P t) {s t : State}
    (h : LineEdits s0 s t) (hs : P s) : P t := by
  induction h with
  | refl => exact hs
  | tail _ h ih => exact hP h ih

/-- Settles O57: every edit of the lines keeps each controller within what its state allows. -/
theorem stepKeepsTheLines : Obligations.StepKeepsTheLines := by
  intro s t
  refine step_keeps (fun _ _ h => h) (fun h hs => ?_)
  rw [State.linesLawful_iff] at *
  exact (exec_lines h).keep LineEdit.lawful hs

/-- Settles O58: every edit of the lines keeps the units, and every application the requesters of their listings. -/
theorem stepKeepsTheListings : Obligations.StepKeepsTheListings := by
  intro s t hl hs ht
  refine (step_keeps (P := fun s => s.LinesLawful ∧ s.ListingsLawful) (fun _ _ h => h) ?_ ⟨hl, hs⟩ ht).2
  rintro c s t h ⟨hl, hs⟩
  obtain ⟨hu, hr⟩ := s.listingsLawful_iff.mp hs
  refine ⟨?_, t.listingsLawful_iff.mpr ⟨(exec_lines h).keep (fun e => e.units hl hs) hu, exec_requesters h hr⟩⟩
  rw [State.linesLawful_iff] at *
  exact (exec_lines h).keep LineEdit.lawful hl

/-- Settles O59: every edit keeps the records short, and so the frames and replies written from them. -/
theorem stepKeepsFramesWithinTheirLengths : Obligations.StepKeepsFramesWithinTheirLengths := by
  intro s t hp hf ht
  refine (step_keeps (P := fun s => s.PoolAccounts ∧ s.FramesFit) (fun _ _ h => h) ?_ ⟨hp, hf⟩ ht).2
  rintro c s t h ⟨hp, hf⟩
  obtain ⟨hrec, hport, hlines⟩ := s.framesFit_iff.mp hf
  have hshort : s.RepliesShort := ⟨hp.2, hrec⟩
  exact ⟨(exec_edits h).keep Edit.poolAccounts hp, t.framesFit_iff.mpr ⟨(exec_edits h).keep (fun e => e.recordsFit hshort) hrec,
    exec_port h hshort hport, (exec_lines h).keep (fun e => e.fits hshort hf) hlines⟩⟩

end Sys2Proof.Machine
end

section
/-! PROOFS. Record changes: every application counts each record it changed once and marks it, and the boundary counts no
more than its expiries do. -/

namespace Sys2Proof.Machine

/-! ### The generation number and the change set (R25 to R27) -/

theorem iterate_add {α : Type} (f : α → α) (m n : Nat) (x : α) : iterate f (m + n) x = iterate f n (iterate f m x) := by
  induction m generalizing x with
  | zero => rw [Nat.zero_add]; rfl
  | succ m ih => rw [Nat.succ_add]; exact ih (f x)

theorem nextGeneration_ne (g : BitVec 32) : nextGeneration g ≠ 0 := by
  unfold nextGeneration
  split
  · decide
  · rename_i h
    intro h0
    apply h
    have : g = 0 - 1 := by rw [← h0]; exact (BitVec.add_sub_cancel g 1).symm
    rw [this]; rfl

theorem iterate_generation_ne {n : Nat} (hn : n ≠ 0) (g : BitVec 32) : iterate nextGeneration n g ≠ 0 := by
  obtain ⟨m, rfl⟩ := Nat.exists_eq_succ_of_ne_zero hn
  rw [Nat.succ_eq_add_one, iterate_add]
  exact nextGeneration_ne _

theorem Mark.code_injective {m n : Mark} (h : m.code.toNat = n.code.toNat) : m = n := by
  cases m <;> cases n <;> simp only [Mark.code, addrByte, groupAddress, BitVec.toNat_ofNat] at h
  · exact congrArg Mark.addr (Fin.ext (by omega))
  · omega
  · omega
  · exact congrArg Mark.group (Fin.ext (by omega))

theorem mem_putMark {m n : Mark} {ms : List Mark} : n ∈ putMark m ms ↔ n = m ∨ n ∈ ms := by
  induction ms with
  | nil => simp [putMark]
  | cons x xs ih =>
    unfold putMark
    split
    · rename_i hx; subst hx; simp
    · split
      · simp
      · rw [List.mem_cons, ih, List.mem_cons, or_left_comm]

/-- A mark is put into its place (R27). -/
theorem putMark_sorted {m : Mark} {ms : List Mark} (h : ms.Pairwise (fun m n => m.code.toNat < n.code.toNat)) :
    (putMark m ms).Pairwise (fun m n => m.code.toNat < n.code.toNat) := by
  induction ms with
  | nil => simp [putMark]
  | cons x xs ih =>
    obtain ⟨hx, hxs⟩ := List.pairwise_cons.mp h
    unfold putMark
    split
    · exact h
    · rename_i hne
      split
      · rename_i hlt
        refine List.pairwise_cons.mpr ⟨fun n hn => ?_, h⟩
        rcases List.mem_cons.mp hn with rfl | hn
        · exact hlt
        · exact Nat.lt_trans hlt (hx n hn)
      · rename_i hge
        refine List.pairwise_cons.mpr ⟨fun n hn => ?_, ih hxs⟩
        rcases mem_putMark.mp hn with rfl | hn
        · exact Nat.lt_of_le_of_ne (Nat.le_of_not_lt hge) (fun he => hne (Mark.code_injective he))
        · exact hx n hn

theorem mem_putMarks {n : Mark} {l ms : List Mark} :
    n ∈ l.foldl (fun ms m => putMark m ms) ms ↔ n ∈ l ∨ n ∈ ms := by
  induction l generalizing ms with
  | nil => simp
  | cons m l ih => simp only [List.foldl_cons, ih, mem_putMark, List.mem_cons, or_left_comm, or_assoc]

theorem putMarks_sorted {l ms : List Mark} (h : ms.Pairwise (fun m n => m.code.toNat < n.code.toNat)) :
    (l.foldl (fun ms m => putMark m ms) ms).Pairwise (fun m n => m.code.toNat < n.code.toNat) := by
  induction l generalizing ms with
  | nil => exact h
  | cons m l ih => exact ih (putMark_sorted h)

/-! ### The records that changed -/

theorem mem_changedRecords {s t : State} {g : List Addr} {m : Mark} :
    m ∈ changedRecords s t g ↔
      (∃ a, m = .addr a ∧ bindingChanged s t g a = true) ∨ ∃ k, m = .group k ∧ groupChanged s t k = true := by
  unfold changedRecords
  simp only [List.mem_append, List.mem_map, List.mem_filter]
  constructor
  · rintro (⟨a, ⟨_, h⟩, rfl⟩ | ⟨k, ⟨_, h⟩, rfl⟩)
    · exact .inl ⟨a, rfl, h⟩
    · exact .inr ⟨k, rfl, h⟩
  · rintro (⟨a, rfl, h⟩ | ⟨k, rfl, h⟩)
    · exact .inl ⟨a, ⟨by simp [allAddrs], h⟩, rfl⟩
    · exact .inr ⟨k, ⟨by simp [allGroups], h⟩, rfl⟩

theorem nodup_changedRecords (s t : State) (g : List Addr) : (changedRecords s t g).Nodup := by
  unfold changedRecords
  refine List.nodup_append.mpr ⟨?_, ?_, ?_⟩
  · exact List.pairwise_map.mpr (((List.nodup_finRange 96).filter _).imp (fun hne h => hne (by cases h; rfl)))
  · exact List.pairwise_map.mpr (((List.nodup_finRange 16).filter _).imp (fun hne h => hne (by cases h; rfl)))
  · intro m hm n hn h
    obtain ⟨a, _, rfl⟩ := List.mem_map.mp hm
    obtain ⟨b, _, rfl⟩ := List.mem_map.mp hn
    cases h

/-- There are 112 records. -/
theorem length_changedRecords (s t : State) (g : List Addr) : (changedRecords s t g).length ≤ 112 := by
  unfold changedRecords
  rw [List.length_append, List.length_map, List.length_map]
  exact Nat.add_le_add (Nat.le_trans (List.length_filter_le _ _) (Nat.le_of_eq List.length_finRange))
    (Nat.le_trans (List.length_filter_le _ _) (Nat.le_of_eq List.length_finRange))

/-- What changed over two steps changed in one of them. -/
theorem changedRecords_trans {s t u : State} {m : Mark} (h : m ∈ changedRecords s u []) :
    m ∈ changedRecords s t [] ∨ m ∈ changedRecords t u [] := by
  refine Classical.byContradiction (fun hn => ?_)
  simp only [not_or, mem_changedRecords, bindingChanged, groupChanged, not_exists, not_and] at hn h
  obtain ⟨⟨h1, h2⟩, h3, h4⟩ := hn
  simp only [List.contains_nil, Bool.false_or, Bool.or_eq_true, decide_eq_true_eq, not_or, Classical.not_not] at *
  obtain ⟨a, rfl, h⟩ | ⟨k, rfl, h⟩ := h
  · obtain ⟨h1a, h1b⟩ := h1 a rfl
    obtain ⟨h3a, h3b⟩ := h3 a rfl
    rcases h with h | h
    · exact h (h1a.trans h3a)
    · exact h (h1b.trans h3b)
  · exact h ((h2 k rfl).trans (h4 k rfl))

theorem bindingChanged_granted (s t : State) (g : List Addr) (a : Addr) :
    bindingChanged s t g a = (g.contains a || bindingChanged s t [] a) := by
  simp [bindingChanged, Bool.or_assoc]

/-- The change of a binding to which a lease was granted counts once, whether or not its record changed besides. -/
theorem changedRecords_filter (s t : State) (g : List Addr) :
    changedRecords s t (g.filter (fun a => !bindingChanged s t [] a)) = changedRecords s t g := by
  unfold changedRecords
  congr 2
  refine List.filter_congr (fun a _ => ?_)
  rw [bindingChanged_granted s t g, bindingChanged_granted s t (g.filter _)]
  cases h : bindingChanged s t [] a <;> simp [h]

/-! ### Counting -/

/-- The generation number has stepped `k` times, at least once for each record that changed; each is marked, and no mark is
lost. -/
structure Counted (s t : State) (k : Nat) : Prop where
  changed : (changedRecords s t []).length ≤ k
  generation : t.generation = iterate nextGeneration k s.generation
  marked : ∀ m, m ∈ changedRecords s t [] ∨ m ∈ s.marks → m ∈ t.marks
  lawful : s.MarksLawful → t.MarksLawful

theorem Counted.still {s t : State} (hb : ∀ a, (t.binding a).record = (s.binding a).record)
    (hg : ∀ k, t.group k = s.group k) (hgen : t.generation = s.generation) (hm : t.marks = s.marks) : Counted s t 0 := by
  have hc : changedRecords s t [] = [] := by
    rw [changedRecords_congr (s' := s) (t' := s) (fun _ => rfl) (fun _ => rfl) hb hg, changedRecords_self]
  exact ⟨by rw [hc]; exact Nat.le_refl _, hgen, fun m h => by rw [hc] at h; rw [hm]; simpa using h,
    fun h => by rw [State.MarksLawful, hgen, hm]; exact h⟩

theorem Counted.trans {s t u : State} {j k : Nat} (h : Counted s t j) (k' : Counted t u k) : Counted s u (j + k) where
  changed := by
    have hsub : changedRecords s u [] ⊆ changedRecords s t [] ++ changedRecords t u [] :=
      fun m hm => List.mem_append.mpr (changedRecords_trans hm)
    have hlen := (nodup_changedRecords s u []).length_le_of_subset hsub
    rw [List.length_append] at hlen
    exact Nat.le_trans hlen (Nat.add_le_add h.changed k'.changed)
  generation := by rw [iterate_add, ← h.generation]; exact k'.generation
  marked m hm := by
    rcases hm with hm | hm
    · rcases changedRecords_trans hm with hm | hm
      · exact k'.marked m (.inr (h.marked m (.inl hm)))
      · exact k'.marked m (.inl hm)
    · exact k'.marked m (.inr (h.marked m (.inr hm)))
  lawful := k'.lawful ∘ h.lawful

/-- What an application counts. -/
structure Applies.Counts (s t : State) (granted : List Addr) : Prop where
  one : granted.length ≤ 1
  fresh : ∀ a ∈ granted, ∃ h n v p, t.binding a = .bound h (.timed n ⟨n, false⟩) v p
  counted : Counted s t (changedRecords s t granted).length

theorem Binding.state_of_record {b c : Binding} (h : b.record = c.record) : b.state = c.state := by
  have hr : ∀ d : Binding, d.record.state = d.state := by intro d; cases d <;> rfl
  rw [← hr b, ← hr c, h]

theorem changedRecords_granted {s t : State} (g : List Addr) {m : Mark} (h : m ∈ changedRecords s t []) :
    m ∈ changedRecords s t g := by
  rw [mem_changedRecords] at *
  exact h.imp (fun ⟨a, ha, h⟩ => ⟨a, ha, by rw [bindingChanged_granted, h, Bool.or_true]⟩) id

/-- Every application steps the generation number once for each record changed, and marks it. -/
theorem Applies.counts {tame : Bool} {s0 s t : State} (h : Applies tame s0 s t) : ∃ g, Applies.Counts s t g := by
  obtain ⟨x, g, hr, hf⟩ := h
  have hrec : ∀ a, (t.binding a).record = (x.binding a).record := fun a => by rw [hf.record]; simp
  have hgrp : ∀ k, t.group k = x.group k := fun k => by rw [hf.group]; simp
  have hchanged : ∀ l, changedRecords s t l = changedRecords s x l :=
    fun l => changedRecords_congr (fun _ => rfl) (fun _ => rfl) hrec hgrp
  have hgen : t.generation = iterate nextGeneration (changedRecords s x g).length s.generation := by
    rw [hf.generation]; simp [State.recordChanges, hr.generation]
  have hmarks : t.marks = (changedRecords s x g).foldl (fun ms m => putMark m ms) s.marks := by
    rw [hf.marks]; simp [State.recordChanges, hr.marks]
  refine ⟨g.filter (fun a => !bindingChanged s x [] a), Nat.le_trans (List.length_filter_le _ _) hr.granted.1, ?_, ?_⟩
  · intro a ha
    obtain ⟨hag, hsame⟩ := List.mem_filter.mp ha
    simp only [bindingChanged, List.contains_nil, Bool.false_or, Bool.not_eq_true', Bool.or_eq_false_iff,
      decide_eq_false_iff_not, Classical.not_not] at hsame
    obtain ⟨o, n, v, p, hx⟩ := hr.granted.2 a hag (Binding.state_of_record hsame.1)
    obtain ⟨q, hq⟩ := hf.lease a o (.timed n ⟨n, false⟩) v p (by simpa using hx)
    exact ⟨o, n, v, q, hq⟩
  · rw [hchanged, changedRecords_filter]
    refine ⟨?_, hgen, fun m hm => ?_, fun hl => ?_⟩
    · rw [hchanged]
      exact (nodup_changedRecords s x []).length_le_of_subset (fun _ hm => changedRecords_granted g hm)
    · rw [hchanged] at hm
      rw [hmarks, mem_putMarks]
      exact hm.imp_left (changedRecords_granted g)
    · obtain ⟨hsorted, hzero⟩ := hl
      rw [State.MarksLawful, hmarks, hgen]
      refine ⟨putMarks_sorted hsorted, fun h0 => ?_⟩
      have hn : (changedRecords s x g).length = 0 :=
        Classical.byContradiction (fun hn => iterate_generation_ne hn _ h0)
      rw [List.length_eq_zero_iff] at hn
      rw [hn] at h0 ⊢
      exact hzero h0

/-! ### The boundary -/

theorem State.expireBinding_others {a c : Addr} (hc : c ≠ a) (s : State) :
    (s.expireBinding a).binding c = s.binding c := by
  unfold State.expireBinding State.lapseOffer State.expireLease State.expireHold State.expireContest
  (repeat' split) <;> simp [hc]

/-- An expiry counts no more than there are records, and nothing when none is due. -/
theorem Counted.expireBinding (a : Addr) (s : State) :
    ∃ k, k ≤ (if (s.binding a).due then 112 else 0) ∧ Counted s (s.expireBinding a) k := by
  cases h : (s.binding a).due with
  | false => exact ⟨0, Nat.le_refl _, by rw [State.expireBinding_same h]; exact .still (fun _ => rfl) (fun _ => rfl) rfl rfl⟩
  | true =>
    obtain ⟨g, hg⟩ := (Applies.expireBinding (tame := true) (s0 := s) (s := s) a).counts
    exact ⟨_, length_changedRecords _ _ g, hg.counted⟩

theorem Counted.expireBindings {l : List Addr} (hl : l.Nodup) (s : State) :
    ∃ k, k ≤ 112 * l.countP (fun a => (s.binding a).due) ∧ Counted s (s.expireBindings l) k := by
  induction l generalizing s with
  | nil => exact ⟨0, Nat.zero_le _, .still (fun _ => rfl) (fun _ => rfl) rfl rfl⟩
  | cons a l ih =>
    obtain ⟨ha, hl⟩ := List.nodup_cons.mp hl
    obtain ⟨j, hj, hs⟩ := Counted.expireBinding a s
    obtain ⟨k, hk, ht⟩ := ih hl (s.expireBinding a)
    refine ⟨j + k, ?_, by rw [State.expireBindings_cons]; exact hs.trans ht⟩
    have hsame : l.countP (fun c => ((s.expireBinding a).binding c).due) = l.countP (fun c => (s.binding c).due) :=
      List.countP_congr (fun c hc => by rw [State.expireBinding_others (by rintro rfl; exact ha hc)])
    rw [List.countP_cons]
    rw [hsame] at hk
    by_cases hd : (s.binding a).due = true
    · rw [if_pos hd] at hj ⊢; omega
    · rw [if_neg hd] at hj ⊢; omega

theorem Follows.counted {tame : Bool} {s0 s t : State} (h : Follows tame s0 s t) : Counted s t 0 :=
  .still h.record h.group h.generation h.marks

theorem Binding.record_tick (b : Binding) : b.tick.record = b.record := by
  cases b with
  | bound h l v p => cases l <;> rfl
  | contested h l v p c r => cases l <;> rfl
  | _ => rfl

theorem Counted.openBoundary_tick (s : State) : Counted s s.openBoundary.tick 0 :=
  .still (fun a => by rw [State.binding_tick, Binding.record_tick]; rfl) (fun _ => rfl) rfl rfl

theorem Counted.secondsBoundary (s : State) :
    ∃ k, k ≤ 112 * allAddrs.countP (fun a => (s.binding a).due) ∧ Counted s s.secondsBoundary k := by
  obtain h | h | h := s.secondsBoundary_cases <;> rw [h]
  · exact ⟨0, Nat.zero_le _, .still (fun _ => rfl) (fun _ => rfl) rfl rfl⟩
  · exact ⟨0, Nat.zero_le _, .still (fun _ => rfl) (fun _ => rfl) rfl rfl⟩
  · obtain ⟨k, hk, hc⟩ := Counted.expireBindings (List.nodup_finRange 96) s
    have hrest : Counted (s.expireBindings allAddrs) s.settleDue 0 := by
      rw [State.settleDue_eq]
      exact ((Follows.expireWaits (tame := true) (s0 := s)).trans .expireRecall).counted
    exact ⟨k, hk, (hc.trans hrest).trans (.openBoundary_tick _)⟩

/-! ### COLLECT -/

theorem marksLawful_drop {s t : State} (n : Nat) (hg : t.generation = s.generation) (hm : t.marks = s.marks.drop n)
    (h : s.MarksLawful) : t.MarksLawful := by
  obtain ⟨hs, h0⟩ := h
  rw [State.MarksLawful, hg, hm]
  exact ⟨hs.sublist (List.drop_sublist n _), fun hz => by rw [h0 hz, List.drop_nil]⟩

/-- Settles O60: a row is one application, whose changes are counted and marked, or COLLECT, which changes no record, or the
boundary, whose expiries are applications. -/
theorem changesAreCountedAndMarked : Obligations.ChangesAreCountedAndMarked := by
  intro c s t h hpower hpin
  cases hc : c.special with
  | false =>
    obtain ⟨g, hg⟩ := (exec_applies hc h).counts
    exact ⟨fun _ => ⟨g, hg.one, hg.fresh, hg.counted.generation⟩, fun h => (by rw [h] at hc; cases hc),
      fun _ => hg.counted.marked, hg.counted.lawful⟩
  | true =>
    obtain rfl | rfl | ⟨_, hreset, _⟩ := Instr.special_cases s hc
    · obtain ⟨hb, hgr, hgen, n, hm⟩ : (∀ a, t.binding a = s.binding a) ∧ (∀ k, t.group k = s.group k)
          ∧ t.generation = s.generation ∧ ∃ n, t.marks = s.marks.drop n := by
        obtain rfl | ⟨p, _, rfl | rfl⟩ := exec_collect h
        · exact ⟨fun _ => rfl, fun _ => rfl, rfl, 0, rfl⟩
        · exact ⟨fun _ => rfl, fun _ => rfl, rfl, 0, rfl⟩
        · exact ⟨fun _ => rfl, fun _ => rfl, rfl, _, rfl⟩
      have hchanged : changedRecords s t [] = [] := by
        rw [changedRecords_congr (s' := s) (t' := s) (fun _ => rfl) (fun _ => rfl) (by simp [hb]) hgr, changedRecords_self]
      exact ⟨fun _ => ⟨[], Nat.zero_le _, nofun, by rw [hchanged]; exact hgen⟩, nofun, fun h => absurd rfl h,
        marksLawful_drop n hgen hm⟩
    · cases h
      obtain ⟨k, hk, hcounted⟩ := Counted.secondsBoundary s
      exact ⟨fun h => absurd rfl h, fun _ => ⟨k, hcounted.changed, hk, hcounted.generation⟩, fun _ => hcounted.marked,
        hcounted.lawful⟩
    · exact absurd hreset (not_or.mpr ⟨hpower, hpin⟩)

end Sys2Proof.Machine
end

section
/-! PROOFS. The identities (R6, R69, R74): rows that introduce none keep each standing within what it was; ASK, CLAIM,
RESERVE, APPROVE, BAR and DENY place one identity where nothing else stands for it. -/

namespace Sys2Proof.Machine

/-! ### Fewer standings -/

/-- Every standing, entry and bar of the second state is one of the first, and a reservation stays one while its identity
stays. -/
structure State.Shrinks (s t : State) : Prop where
  parties : ∀ a, (t.binding a).parties.Sublist (s.binding a).parties
  reserved : ∀ a, (s.binding a).state = .reserved → (t.binding a).state = .reserved ∨ (t.binding a).parties = []
  entries : (t.admission.map (·.identity)).Sublist (s.admission.map (·.identity))
  barred : t.barred.Sublist s.barred

theorem State.Shrinks.of_same {s t : State} (hb : ∀ a, t.binding a = s.binding a) (ha : t.admission = s.admission)
    (hr : t.barred = s.barred) : s.Shrinks t :=
  ⟨fun a => sublist_of_eq (by rw [hb]), fun a h => .inl (by rw [hb]; exact h), sublist_of_eq (by rw [ha]), sublist_of_eq hr⟩

theorem State.Shrinks.refl (s : State) : s.Shrinks s := .of_same (fun _ => rfl) rfl rfl

theorem State.Shrinks.trans {s t u : State} (h : s.Shrinks t) (k : t.Shrinks u) : s.Shrinks u where
  parties a := (k.parties a).trans (h.parties a)
  reserved a hs := by
    rcases h.reserved a hs with ht | ht
    · exact k.reserved a ht
    · exact .inr (List.sublist_nil.mp (ht ▸ k.parties a))
  entries := k.entries.trans h.entries
  barred := k.barred.trans h.barred

theorem State.Shrinks.onlyReserved {s t : State} (h : s.Shrinks t) {x : Identity} (hx : s.onlyReserved x) :
    t.onlyReserved x := by
  intro a ha
  rcases h.reserved a (hx a ((h.parties a).subset ha)) with ht | ht
  · exact ht
  · rw [ht] at ha; cases ha

theorem State.Shrinks.once {s t : State} (h : s.Shrinks t) (hs : s.IdentitiesStandOnce) : t.IdentitiesStandOnce :=
  ⟨fun a => ⟨(hs.1 a).1.sublist (h.parties a), fun x hx => (hs.1 a).2 x ((h.parties a).subset hx)⟩,
    fun a b hab x hx hy => hs.2 a b hab x ((h.parties a).subset hx) ((h.parties b).subset hy)⟩

/-- The identities of the admission entries obey the law of the queue. -/
theorem State.admissionLawful_iff (s : State) :
    s.AdmissionLawful ↔ (s.admission.map (·.identity)).length ≤ 8 ∧ (s.admission.map (·.identity)).Nodup
      ∧ ∀ x ∈ s.admission.map (·.identity), x ∉ s.barred ∧ validIdentity x = true ∧ s.onlyReserved x := by
  rw [State.AdmissionLawful, List.length_map]
  simp only [List.mem_map, forall_exists_index, and_imp, forall_apply_eq_imp_iff₂]

theorem State.Shrinks.admission {s t : State} (h : s.Shrinks t) (hs : s.AdmissionLawful) : t.AdmissionLawful := by
  rw [State.admissionLawful_iff] at *
  obtain ⟨hlen, hnodup, hall⟩ := hs
  refine ⟨Nat.le_trans h.entries.length_le hlen, hnodup.sublist h.entries, fun x hx => ?_⟩
  obtain ⟨hbar, hvalid, hres⟩ := hall x (h.entries.subset hx)
  exact ⟨fun hx => hbar (h.barred.subset hx), hvalid, h.onlyReserved hres⟩

/-- Fewer standings keep the laws. -/
theorem State.Shrinks.identities {s t : State} (h : s.Shrinks t) (hs : s.IdentitiesLawful) : t.IdentitiesLawful := by
  obtain ⟨honce, hadm, hlen, hnodup, hsorted, hres⟩ := hs
  exact ⟨h.once honce, h.admission hadm, Nat.le_trans h.barred.length_le hlen, hnodup.sublist h.barred,
    hsorted.sublist h.barred, fun x hx => h.onlyReserved (hres x (h.barred.subset hx))⟩

theorem State.Shrinks.of_put {s t : State} {a : Addr} {b : Binding} (h : s.Admits true a b)
    (hb : ∀ c, t.binding c = if c = a then b else s.binding c) (ha : t.admission = s.admission)
    (hr : t.barred = s.barred) : s.Shrinks t := by
  refine ⟨fun c => ?_, fun c hc => ?_, sublist_of_eq (by rw [ha]), sublist_of_eq hr⟩
  · rw [hb]
    split
    · rename_i hca; subst hca; exact h.parties rfl
    · exact .refl _
  · rw [hb]
    split
    · rename_i hca; subst hca; exact h.reserved rfl hc
    · exact .inl hc

theorem Binding.parties_tick (b : Binding) : b.tick.parties = b.parties ∧ b.tick.state = b.state := by
  cases b <;> exact ⟨rfl, rfl⟩

theorem Binding.parties_stopTimers (b : Binding) : b.stopTimers.parties = b.parties ∧ b.stopTimers.state = b.state := by
  cases b <;> exact ⟨rfl, rfl⟩

theorem Binding.parties_cleared (k : Bool) (b : Binding) :
    (b.cleared k).parties.Sublist b.parties
      ∧ (b.state = .reserved → (b.cleared k).state = .reserved ∨ (b.cleared k).parties = []) := by
  cases k <;> cases b with
  | offered h o r => cases o <;> simp [Binding.cleared, Binding.reservation?, Binding.parties, Binding.state, Holder.reservation]
  | bound h l v p => cases v <;> simp [Binding.cleared, Binding.reservation?, Binding.parties, Binding.state, Holder.reservation]
  | contested h l v p c r => cases v <;> simp [Binding.cleared, Binding.reservation?, Binding.parties, Binding.state, Holder.reservation]
  | _ => simp [Binding.cleared, Binding.reservation?, Binding.parties, Binding.state]

theorem State.Shrinks.of_map {s t : State} (hp : ∀ a, (t.binding a).parties = (s.binding a).parties)
    (hs : ∀ a, (t.binding a).state = (s.binding a).state)
    (ha : t.admission.map (·.identity) = s.admission.map (·.identity)) (hr : t.barred = s.barred) : s.Shrinks t :=
  ⟨fun a => sublist_of_eq (hp a), fun a h => .inl (by rw [hs]; exact h), sublist_of_eq ha, sublist_of_eq hr⟩

/-- A tame edit gives no identity a standing it had not. -/
theorem Edit.shrinks {short : Prop} {s t : State} (e : Edit true short s t) : s.Shrinks t := by
  cases e with
  | same k => exact .of_same k.binding k.admission k.barred
  | put a b h _ _ => exact .of_put h (fun c => State.binding_setBinding ..) (by simp) (by simp)
  | enter a b h _ _ => exact .of_put h (fun c => by simp [State.binding_setBinding]) (by simp) (by simp)
  | free p a h =>
    have hb : ∀ c, (((s.setBinding a .free).leaveQueues a).joinFree p a).binding c = if c = a then .free else s.binding c :=
      fun c => by simp [State.binding_setBinding]
    refine ⟨fun c => ?_, fun c hc => ?_, by simp, by simp⟩ <;> rw [hb] <;> split
    · exact List.nil_sublist _
    · exact .refl _
    · exact .inr rfl
    · exact .inl hc
  | hold former n a h =>
    exact .of_put h (fun c => by simp [State.enterHold, State.binding_setBinding]) (by simp [State.enterHold]) (by simp [State.enterHold])
  | cache a r h =>
    refine .of_map (fun c => ?_) (fun c => ?_) (by simp) (by simp)
    all_goals
      by_cases hc : c = a
      · subst hc; rw [State.cacheReply_binding]; split <;> simp_all [Binding.parties, Binding.state]
      · simp [hc]
  | drop a => exact .of_same (by simp) (by simp) (by simp)
  | entries q hi hw => exact ⟨fun _ => .refl _, fun _ h => .inl h, hi, .refl _⟩
  | entry h ht => cases ht
  | barred q h => exact ⟨fun _ => .refl _, fun _ h => .inl h, .refl _, h rfl⟩
  | policy p hp hl => exact .of_same (fun _ => rfl) rfl rfl
  | running => exact .of_same (fun _ => rfl) rfl rfl
  | recalling w hlo hhi ho => exact ⟨fun _ => .refl _, fun _ h => .inl h, List.nil_sublist _, .refl _⟩
  | stop =>
    have hb : ∀ a, ({ s.stopTimers with phase := .stopped } : State).binding a = (s.binding a).stopTimers :=
      s.binding_stopTimers
    exact .of_map (fun a => by rw [hb, (Binding.parties_stopTimers _).1]) (fun a => by rw [hb, (Binding.parties_stopTimers _).2])
      (by simp [State.stopTimers]) rfl
  | tick h =>
    exact .of_map (fun a => by rw [State.binding_tick, (Binding.parties_tick _).1])
      (fun a => by rw [State.binding_tick, (Binding.parties_tick _).2]) (by simp [State.tick]) rfl
  | regroup g r n hn hl hm => exact .of_same (fun _ => rfl) rfl rfl
  | clear kr kg h hs =>
    have hb : ∀ a, t.binding a = (s.binding a).cleared kr := fun a => by rw [h.binding, State.binding_clearTable]
    refine ⟨fun a => ?_, fun a => ?_, ?_, ?_⟩
    · rw [hb]; exact (Binding.parties_cleared kr _).1
    · rw [hb]; exact (Binding.parties_cleared kr _).2
    · rw [h.admission]; simp [State.clearTable]
    · rw [h.barred]; simp [State.clearTable]
  | reset k =>
    have hb : ∀ a, t.binding a = .free := fun a => by rw [k.binding, binding_reset]
    refine ⟨fun a => ?_, fun a _ => .inr ?_, ?_, ?_⟩
    · rw [hb]; exact List.nil_sublist _
    · rw [hb]; rfl
    · rw [k.admission]; exact List.nil_sublist _
    · rw [k.barred]; exact List.nil_sublist _

theorem Edits.shrinks {short : Prop} {s t : State} (h : Edits true short s t) : s.Shrinks t := by
  induction h with
  | refl => exact .refl _
  | tail _ h ih => exact ih.trans h.shrinks

/-! ### One identity placed -/

/-- What it takes to place an identity at an address: elsewhere standings go or stay; at the address stand this identity and
identities that stood there. -/
structure State.Places (s t : State) (x : Identity) (a : Addr) : Prop where
  valid : validIdentity x = true
  unbarred : x ∉ s.barred
  others : ∀ c, c ≠ a → (t.binding c).parties.Sublist (s.binding c).parties ∧ x ∉ (t.binding c).parties
    ∧ ((s.binding c).state = .reserved → (t.binding c).state = .reserved ∨ (t.binding c).parties = [])
  nodup : (t.binding a).parties.Nodup
  here : ∀ y ∈ (t.binding a).parties, y = x ∨ (y ∈ (s.binding a).parties ∧ (s.binding a).state ≠ .reserved)
  entries : (t.admission.map (·.identity)).Sublist (s.admission.map (·.identity))
  entry : (t.binding a).state = .reserved ∨ x ∉ t.admission.map (·.identity)
  barred : t.barred.Sublist s.barred

theorem State.Places.once {s t : State} {x : Identity} {a : Addr} (h : s.Places t x a) (hs : s.IdentitiesStandOnce) :
    t.IdentitiesStandOnce := by
  have hsub : ∀ c, c ≠ a → (t.binding c).parties.Sublist (s.binding c).parties := fun c hc => (h.others c hc).1
  have haway : ∀ c, c ≠ a → ∀ y ∈ (t.binding a).parties, y ∉ (t.binding c).parties := by
    intro c hc y hy hyc
    rcases h.here y hy with rfl | ⟨hy, _⟩
    · exact (h.others c hc).2.1 hyc
    · exact hs.2 c a hc y ((hsub c hc).subset hyc) hy
  refine ⟨fun c => ?_, fun c d hcd y hc hd => ?_⟩
  · by_cases hc : c = a
    · subst hc
      refine ⟨h.nodup, fun y hy => ?_⟩
      rcases h.here y hy with rfl | ⟨hy, _⟩
      · exact h.valid
      · exact (hs.1 c).2 y hy
    · exact ⟨(hs.1 c).1.sublist (hsub c hc), fun y hy => (hs.1 c).2 y ((hsub c hc).subset hy)⟩
  · by_cases hca : c = a
    · subst hca; exact haway d (Ne.symm hcd) y hc hd
    · by_cases hda : d = a
      · subst hda; exact haway c hca y hd hc
      · exact hs.2 c d hcd y ((hsub c hca).subset hc) ((hsub d hda).subset hd)

theorem State.Places.onlyReserved {s t : State} {x y : Identity} {a : Addr} (h : s.Places t x a) (hy : y ≠ x)
    (hs : s.onlyReserved y) : t.onlyReserved y := by
  intro c hc
  by_cases hca : c = a
  · subst hca
    rcases h.here y hc with rfl | ⟨hyc, hn⟩
    · exact absurd rfl hy
    · exact absurd (hs c hyc) hn
  · obtain ⟨hsub, _, hres⟩ := h.others c hca
    rcases hres (hs c (hsub.subset hc)) with ht | ht
    · exact ht
    · rw [ht] at hc; cases hc

/-- An identity that is not barred, placed where nothing else stands for it, keeps the laws. -/
theorem State.Places.identities {s t : State} {x : Identity} {a : Addr} (h : s.Places t x a) (hs : s.IdentitiesLawful) :
    t.IdentitiesLawful := by
  obtain ⟨honce, hadm, hlen, hnodup, hsorted, hres⟩ := hs
  rw [State.admissionLawful_iff] at hadm
  obtain ⟨halen, hanodup, hall⟩ := hadm
  refine ⟨h.once honce, t.admissionLawful_iff.mpr ⟨Nat.le_trans h.entries.length_le halen, hanodup.sublist h.entries, ?_⟩,
    Nat.le_trans h.barred.length_le hlen, hnodup.sublist h.barred, hsorted.sublist h.barred, ?_⟩
  · intro y hy
    obtain ⟨hbar, hvalid, hyr⟩ := hall y (h.entries.subset hy)
    refine ⟨fun hyb => hbar (h.barred.subset hyb), hvalid, ?_⟩
    by_cases hyx : y = x
    · subst hyx
      intro c hc
      by_cases hca : c = a
      · subst hca; exact h.entry.resolve_right (fun hn => hn hy)
      · exact absurd hc (h.others c hca).2.1
    · exact h.onlyReserved hyx hyr
  · intro y hy
    have hy := h.barred.subset hy
    exact h.onlyReserved (by rintro rfl; exact h.unbarred hy) (hres y hy)

/-! ### The barred set (R74) -/

theorem mem_insertBefore {α : Type} {p : α → Bool} {x y : α} {q : List α} : y ∈ insertBefore p x q ↔ y = x ∨ y ∈ q := by
  induction q with
  | nil => simp [insertBefore]
  | cons z q ih =>
    unfold insertBefore
    split
    · simp
    · rw [List.mem_cons, ih, List.mem_cons, or_left_comm]

theorem length_insertBefore {α : Type} (p : α → Bool) (x : α) (q : List α) :
    (insertBefore p x q).length = q.length + 1 := by
  induction q with
  | nil => rfl
  | cons z q ih =>
    unfold insertBefore
    split
    · rfl
    · rw [List.length_cons, ih]; rfl

theorem identityKey_injective {x y : Identity} (h : identityKey x = identityKey y) : x = y := by
  obtain ⟨a0, a1, a2, a3, a4, a5⟩ := x
  obtain ⟨b0, b1, b2, b3, b4, b5⟩ := y
  simp only [identityKey, identityBytes, List.foldl_cons, List.foldl_nil] at h
  simp only [Identity.mk.injEq, ← BitVec.toNat_inj]
  omega

theorem sorted_insertBefore {x : Identity} {q : List Identity} (hx : x ∉ q)
    (h : q.Pairwise (fun y z => identityKey y < identityKey z)) :
    (insertBefore (fun y => decide (identityKey x < identityKey y)) x q).Pairwise
      (fun y z => identityKey y < identityKey z) := by
  induction q with
  | nil => simp [insertBefore]
  | cons z q ih =>
    obtain ⟨hz, hq⟩ := List.pairwise_cons.mp h
    rw [List.mem_cons, not_or] at hx
    obtain ⟨hxz, hxq⟩ := hx
    unfold insertBefore
    split
    · rename_i hlt
      refine List.pairwise_cons.mpr ⟨fun y hy => ?_, h⟩
      rcases List.mem_cons.mp hy with rfl | hy
      · exact of_decide_eq_true hlt
      · exact Nat.lt_trans (of_decide_eq_true hlt) (hz y hy)
    · rename_i hge
      refine List.pairwise_cons.mpr ⟨fun y hy => ?_, ih hxq hq⟩
      rcases mem_insertBefore.mp hy with rfl | hy
      · refine Nat.lt_of_le_of_ne (Nat.le_of_not_lt ?_) (fun he => hxz (identityKey_injective he).symm)
        simpa using hge
      · exact hz y hy

/-- An identity that stands in no more than a reservation, and has no entry, joins the barred set. -/
theorem State.identities_barred {s t : State} {x : Identity} (h : s.Shrinks { t with barred := s.barred })
    (hbar : t.barred = insertBefore (fun y => decide (identityKey x < identityKey y)) x s.barred) (hx : x ∉ s.barred)
    (hroom : s.barred.length < 16) (he : x ∉ t.admission.map (·.identity)) (hr : t.onlyReserved x)
    (hs : s.IdentitiesLawful) : t.IdentitiesLawful := by
  obtain ⟨honce, hadm, hlen, _, hsorted, hres⟩ := h.identities hs
  rw [State.admissionLawful_iff] at hadm
  obtain ⟨halen, hanodup, hall⟩ := hadm
  have hsorted' := sorted_insertBefore hx hsorted
  refine ⟨honce, t.admissionLawful_iff.mpr ⟨halen, hanodup, fun y hy => ?_⟩, ?_, ?_, ?_, ?_⟩
  · obtain ⟨hbary, hvalid, hyr⟩ := hall y hy
    refine ⟨fun hyb => ?_, hvalid, hyr⟩
    rw [hbar] at hyb
    rcases mem_insertBefore.mp hyb with rfl | hyb
    · exact he hy
    · exact hbary hyb
  · rw [hbar, length_insertBefore]; exact hroom
  · rw [hbar]
    exact hsorted'.imp (fun hlt heq => by rw [heq] at hlt; exact Nat.lt_irrefl _ hlt)
  · rw [hbar]; exact hsorted'
  · intro y hy
    rw [hbar] at hy
    rcases mem_insertBefore.mp hy with rfl | hy
    · exact hr
    · exact hres y hy

end Sys2Proof.Machine
end

section
/-! PROOFS. What ASK comes to by where its identity stands, and what CLAIM finds elsewhere. -/

namespace Sys2Proof.Machine

/-! ### ASK by standing (R54 to R64) -/

/-- An identity stands where one of the six searches finds it (R55). -/
theorem search_of_party {x : Identity} {b : Binding} (h : x ∈ b.parties) :
    isReservedFor x b = true ∨ isHeldBy x b = true ∨ isOfferedTo x b = true ∨ isBoundTo x b = true
      ∨ isIncumbent x b = true ∨ isChallenger x b = true := by
  cases b with
  | held o r => cases o <;> simp_all [Binding.parties, isHeldBy]
  | contested k l v p c r =>
    simp only [Binding.parties, List.mem_cons, List.not_mem_nil, or_false] at h
    rcases h with rfl | rfl <;> simp [isIncumbent, isChallenger, Binding.challenger?]
  | free | reserved _ | offered _ _ _ | bound _ _ _ _ =>
    simp_all [Binding.parties, isReservedFor, isOfferedTo, isBoundTo]

/-- The reservation or the hold of the identity is its own address (R61). -/
theorem State.ownAddr_reserved {s : State} {x : Identity} {a : Addr} {r : Reservation} (hs : s.IdentitiesStandOnce)
    (hb : s.binding a = .reserved r) (hx : r.identity = x) : s.ownAddr x = some (a, .reserved r.kind) := by
  have ha : x ∈ (s.binding a).parties := by simp [hb, Binding.parties, hx]
  have := search_at hs ha (p := isReservedFor) (by simp)
  rw [hb] at this
  simp [State.ownAddr, this, isReservedFor, hx, hb]

theorem State.ownAddr_held {s : State} {x : Identity} {a : Addr} {h : Holder} {k : Countdown} (hs : s.IdentitiesStandOnce)
    (hb : s.binding a = .held (some h) k) (hx : h.identity = x) : s.ownAddr x = some (a, .held) := by
  have ha : x ∈ (s.binding a).parties := by simp [hb, Binding.parties, hx]
  have h1 := search_at hs ha (p := isReservedFor) (by simp)
  have h2 := search_at hs ha (p := isHeldBy) (by simp)
  rw [hb] at h1 h2
  simp [State.ownAddr, h1, h2, isReservedFor, isHeldBy, hx]

variable {s : State} {h : Holder} {a : Addr}

theorem decideAsk_bound {k : Holder} {l : Lease} {v : Bool} {p : Option Replay} (hs : s.IdentitiesStandOnce)
    (hb : s.binding a = .bound k l v p) (hx : k.identity = h.identity) :
    decideAsk h s = { state := s.setBinding a (.bound (k.on h.segment) l v none), status := .already,
                      rest := identityBytes h.identity ++ (addrByte a :: le16 l.remainingField) } := by
  have ha : h.identity ∈ (s.binding a).parties := by simp [hb, Binding.parties, hx]
  have h1 := search_at hs ha (p := isBoundTo) (by simp)
  rw [hb] at h1
  simp [decideAsk, h1, isBoundTo, hx, alreadyAnswer, hb]

theorem decideAsk_offered {k : Holder} {o : Origin} {r : Countdown} (hs : s.IdentitiesStandOnce)
    (hb : s.binding a = .offered k o r) (hx : k.identity = h.identity) :
    decideAsk h s = { state := s.setBinding a (.offered (k.on h.segment) o r), status := .ok,
                      rest := offerFields h.identity a (s.offerLease o) r.remaining } := by
  have ha : h.identity ∈ (s.binding a).parties := by simp [hb, Binding.parties, hx]
  have h1 := search_at hs ha (p := isBoundTo) (by simp)
  have h2 := search_at hs ha (p := isChallenger) (by simp)
  have h3 := search_at hs ha (p := isIncumbent) (by simp)
  have h4 := search_at hs ha (p := isOfferedTo) (by simp)
  rw [hb] at h1 h2 h3 h4
  simp [decideAsk, h1, h2, h3, h4, isBoundTo, isChallenger, isIncumbent, isOfferedTo, Binding.challenger?, hx,
    repeatAnswer, hb]

theorem decideAsk_challenger {k : Holder} {l : Lease} {v : Bool} {p : Option Replay} {c : Challenger}
    {r : Option Countdown} (hs : s.IdentitiesStandOnce) (hb : s.binding a = .contested k l v p c r)
    (hx : c.identity = h.identity) : decideAsk h s = continueAsk h (s.setBinding a (.bound k l v p)) := by
  have ha : h.identity ∈ (s.binding a).parties := by simp [hb, Binding.parties, hx]
  have h1 := search_at hs ha (p := isBoundTo) (by simp)
  have h2 := search_at hs ha (p := isChallenger) (by simp)
  rw [hb] at h1 h2
  simp [decideAsk, h1, h2, isBoundTo, isChallenger, Binding.challenger?, hx, State.withdrawChallenger, hb,
    State.resumeIncumbent]

theorem decideAsk_incumbent {k : Holder} {l : Lease} {v : Bool} {p : Option Replay} {c : Challenger}
    {r : Option Countdown} (hs : s.IdentitiesStandOnce) (hb : s.binding a = .contested k l v p c r)
    (hx : k.identity = h.identity) : decideAsk h s = continueAsk h (s.keepChallenger c l v a) := by
  have hne : c.identity ≠ h.identity := by
    have := (hs.1 a).1
    rw [hb] at this
    simp only [Binding.parties, List.nodup_cons, List.mem_singleton] at this
    exact fun hc => this.1 (hx.trans hc.symm)
  have ha : h.identity ∈ (s.binding a).parties := by simp [hb, Binding.parties, hx]
  have h1 := search_at hs ha (p := isBoundTo) (by simp)
  have h2 := search_at hs ha (p := isChallenger) (by simp)
  have h3 := search_at hs ha (p := isIncumbent) (by simp)
  rw [hb] at h1 h2 h3
  simp [decideAsk, h1, h2, h3, isBoundTo, isChallenger, isIncumbent, Binding.challenger?, hx, hne,
    State.withdrawIncumbent, hb]

/-- An identity with a reservation or a hold goes on to the offer of its own address (R61). -/
theorem decideAsk_own (hs : s.IdentitiesStandOnce) (ha : h.identity ∈ (s.binding a).parties)
    (hst : (s.binding a).state = .reserved ∨ (s.binding a).state = .held) : decideAsk h s = continueAsk h s := by
  have h1 := search_at hs ha (p := isBoundTo) (by simp)
  have h2 := search_at hs ha (p := isChallenger) (by simp)
  have h3 := search_at hs ha (p := isIncumbent) (by simp)
  have h4 := search_at hs ha (p := isOfferedTo) (by simp)
  cases hb : s.binding a with
  | reserved r =>
    rw [hb] at h1 h2 h3 h4
    simp [decideAsk, h1, h2, h3, h4, isBoundTo, isChallenger, isIncumbent, isOfferedTo, Binding.challenger?]
  | held o r =>
    rw [hb] at h1 h2 h3 h4
    simp [decideAsk, h1, h2, h3, h4, isBoundTo, isChallenger, isIncumbent, isOfferedTo, Binding.challenger?]
  | free | offered _ _ _ | bound _ _ _ _ | contested _ _ _ _ _ _ => simp [hb, Binding.state] at hst

/-- The own address of an identity that stands in a reservation or a hold (R61). -/
theorem State.ownAddr_at {x : Identity} (hs : s.IdentitiesStandOnce) (ha : x ∈ (s.binding a).parties)
    (hst : (s.binding a).state = .reserved ∨ (s.binding a).state = .held) : ∃ o, s.ownAddr x = some (a, o) := by
  cases hb : s.binding a with
  | reserved r =>
    simp only [hb, Binding.parties, List.mem_singleton] at ha
    exact ⟨_, State.ownAddr_reserved hs hb ha.symm⟩
  | held o r =>
    cases o with
    | none => simp [hb, Binding.parties] at ha
    | some k =>
      simp only [hb, Binding.parties, Option.map_some, Option.toList_some, List.mem_singleton] at ha
      exact ⟨_, State.ownAddr_held hs hb ha.symm⟩
  | free | offered _ _ _ | bound _ _ _ _ | contested _ _ _ _ _ _ => simp [hb, Binding.state] at hst

/-! ### CLAIM elsewhere (R108) -/

/-- After the settlement of a claimant, what stands elsewhere stood there before, and the claimant stands elsewhere no
more. -/
theorem State.forgetElsewhere_others {x : Identity} {c : Addr} (hca : c ≠ a)
    (hs : ∀ b d, b ≠ a → d ≠ a → x ∈ (s.binding b).parties → x ∈ (s.binding d).parties → b = d)
    (hheld : ∀ b, b ≠ a → x ∈ (s.binding b).parties → (s.binding b).state = .held) :
    x ∉ ((s.forgetElsewhere x a).binding c).parties := by
  unfold State.forgetElsewhere
  intro hc
  split at hc
  · rename_i b hb
    have hfound := List.find?_some (p := fun b => decide (b ≠ a) && isHeldBy x (s.binding b)) hb
    simp only [Bool.and_eq_true, decide_eq_true_eq] at hfound
    have hbx := (isHeldBy_iff.mp hfound.2).1
    by_cases hcb : c = b
    · subst hcb
      rw [State.makeAnonymous_binding] at hc
      cases hbb : s.binding c with
      | held o r => cases o <;> simp [hbb, Binding.parties] at hc
      | free | reserved _ | offered _ _ _ | bound _ _ _ _ | contested _ _ _ _ _ _ => simp [hbb, isHeldBy] at hfound
    · rw [State.makeAnonymous_others hcb] at hc
      exact hcb (hs c b hca hfound.1 hc hbx)
  · rename_i hnone
    have := List.find?_eq_none.mp hnone c (mem_allAddrs c)
    simp only [Bool.and_eq_true, decide_eq_true_eq, not_and] at this
    exact this hca (isHeldBy_iff.mpr ⟨hc, hheld c hca hc⟩)

theorem State.shrinks_makeAnonymous (b : Addr) (s : State) : s.Shrinks (s.makeAnonymous b) :=
  (Edits.makeAnonymous (short := True) b s).shrinks

theorem State.shrinks_forgetElsewhere (x : Identity) (a : Addr) (s : State) : s.Shrinks (s.forgetElsewhere x a) := by
  unfold State.forgetElsewhere
  split
  · exact s.shrinks_makeAnonymous _
  · exact .refl s

theorem State.shrinks_removeEntry (x : Identity) (s : State) : s.Shrinks (s.removeEntry x) :=
  ⟨fun a => by simp, fun a h => .inl (by simpa using h), by simpa using (List.filter_sublist (l := s.admission)).map _, by simp⟩

theorem State.entries_removeEntry (x : Identity) (s : State) : x ∉ (s.removeEntry x).admission.map (·.identity) := by
  simp

theorem State.shrinks_moveEntry (x : Identity) (seg : Segment) (s : State) : s.Shrinks (s.moveEntry x seg) := by
  refine .of_map (fun _ => rfl) (fun _ => rfl) ?_ rfl
  simp only [State.moveEntry, List.map_map]
  refine List.map_congr_left (fun e _ => ?_)
  simp only [Function.comp_apply]
  split <;> rfl

/-- A record rewritten with fewer parties, that was no reservation. -/
theorem State.shrinks_setBinding {a : Addr} {b : Binding} {s : State} (hp : b.parties.Sublist (s.binding a).parties)
    (hr : (s.binding a).state ≠ .reserved) : s.Shrinks (s.setBinding a b) := by
  refine ⟨fun c => ?_, fun c hc => .inl ?_, by simp, by simp⟩ <;> rw [State.binding_setBinding] <;> split
  · rename_i h; subst h; exact hp
  · exact .refl _
  · rename_i h; subst h; exact absurd hc hr
  · exact hc

end Sys2Proof.Machine
end

section
/-! PROOFS. Every row keeps the laws of the identities. -/

namespace Sys2Proof.Machine

/-! ### Offers -/

/-- An offer to an identity that is not barred and stands nowhere else keeps the laws. -/
theorem State.identities_makeOffer {s : State} {h : Holder} {o : Origin} {a : Addr} (hs : s.IdentitiesLawful)
    (hv : validIdentity h.identity = true) (hbar : h.identity ∉ s.barred)
    (hn : ∀ c, c ≠ a → h.identity ∉ (s.binding c).parties) : (s.makeOffer h o a).IdentitiesLawful := by
  refine State.Places.identities (x := h.identity) (a := a) ⟨hv, hbar, fun c hc => ?_, ?_, ?_, ?_, .inr ?_, ?_⟩ hs
  · rw [State.makeOffer_others _ _ hc]; exact ⟨.refl _, hn c hc, .inl⟩
  · simp [Binding.parties]
  · simp [Binding.parties]
  · simpa [State.makeOffer] using (List.filter_sublist (l := s.admission)).map _
  · simp [State.makeOffer]
  · simp

theorem State.identities_offerNewcomer {s : State} {h : Holder} {a : Addr} (hs : s.IdentitiesLawful)
    (hv : validIdentity h.identity = true) (hbar : h.identity ∉ s.barred)
    (hn : ∀ c, h.identity ∉ (s.binding c).parties) : (s.offerNewcomer h a).IdentitiesLawful :=
  State.identities_makeOffer ((s.shrinks_makeAnonymous a).identities hs) hv (by simpa using hbar)
    (fun c _ hc => hn c (((s.shrinks_makeAnonymous a).parties c).subset hc))

/-- An offer at the own address of an identity. -/
theorem State.identities_offerOwn {s : State} {h : Holder} {o g : Origin} {a : Addr} (hs : s.IdentitiesLawful)
    (hv : validIdentity h.identity = true) (hbar : h.identity ∉ s.barred) (ha : s.ownAddr h.identity = some (a, g)) :
    (s.makeOffer h o a).IdentitiesLawful := by
  refine State.identities_makeOffer hs hv hbar (fun c hc hcx => hc (party_unique hs.1 ?_ hcx))
  obtain ⟨r, hb, hx, _⟩ | ⟨k, r, hb, hx, _⟩ := State.ownAddr_some ha
  · simp [hb, Binding.parties, hx]
  · simp [hb, Binding.parties, hx]

/-! ### ASK -/

theorem superviseAsk_identities {s : State} {h : Holder} (hs : s.IdentitiesLawful) (hv : validIdentity h.identity = true)
    (hbar : h.identity ∉ s.barred) (hn : ∀ c, h.identity ∉ (s.binding c).parties) :
    (superviseAsk h s).state.IdentitiesLawful := by
  unfold superviseAsk
  split
  · exact (State.shrinks_moveEntry h.identity h.segment s).identities hs
  · rename_i hnone
    split
    · rename_i hroom
      obtain ⟨honce, hadm, hbarred⟩ := hs
      rw [State.admissionLawful_iff] at hadm
      obtain ⟨_, hnodup, hall⟩ := hadm
      have hmap : ((s.addEntry h).setFactor .admitPending).admission.map (·.identity)
          = s.admission.map (·.identity) ++ [h.identity] := by simp [State.addEntry]
      refine ⟨honce, (State.admissionLawful_iff _).mpr ?_, hbarred⟩
      simp only [waitAnswer]
      rw [hmap]
      refine ⟨?_, ?_, ?_⟩
      · simp only [Config.admissionPlaces] at hroom
        rw [List.length_append, List.length_map]
        exact hroom
      · refine List.nodup_append.mpr ⟨hnodup, List.pairwise_singleton _ _, ?_⟩
        rintro y hy z hz rfl
        rw [List.mem_singleton] at hz
        subst hz
        simp only [State.hasEntry, List.any_eq_true, decide_eq_true_eq, not_exists, not_and] at hnone
        obtain ⟨e, he, hex⟩ := List.mem_map.mp hy
        exact hnone e he hex
      · intro y hy
        rcases List.mem_append.mp hy with hy | hy
        · exact hall y hy
        · rw [List.mem_singleton] at hy
          subst hy
          exact ⟨hbar, hv, fun c hc => absurd hc (hn c)⟩
    · exact hs

theorem openAsk_identities {s : State} {h : Holder} (hs : s.IdentitiesLawful) (hv : validIdentity h.identity = true)
    (hbar : h.identity ∉ s.barred) (hn : ∀ c, h.identity ∉ (s.binding c).parties) :
    (openAsk h s).state.IdentitiesLawful := by
  unfold openAsk
  split
  · exact hs
  · split
    · exact State.identities_offerNewcomer hs hv hbar hn
    · exact (State.Shrinks.of_same (by simp) (by simp) (by simp)).identities hs

/-- An ASK whose identity stands nowhere, or has an address of its own, keeps the laws. -/
theorem continueAsk_identities {s : State} {h : Holder} (hs : s.IdentitiesLawful) (hv : validIdentity h.identity = true)
    (hbar : h.identity ∉ s.barred)
    (hn : ∀ c, h.identity ∈ (s.binding c).parties → (s.binding c).state = .reserved ∨ (s.binding c).state = .held) :
    (continueAsk h s).state.IdentitiesLawful := by
  unfold continueAsk
  split
  · rename_i a o ha
    split
    · exact hs
    · exact State.identities_offerOwn hs hv hbar ha
  · rename_i hown
    have hnowhere : ∀ c, h.identity ∉ (s.binding c).parties := by
      intro c hc
      obtain ⟨o, ho⟩ := State.ownAddr_at hs.1 hc (hn c hc)
      rw [hown] at ho; cases ho
    split
    · exact hs
    · exact superviseAsk_identities hs hv hbar hnowhere
    · exact openAsk_identities hs hv hbar hnowhere

/-- The ASK of a party to a contest: the contest is settled for the other, and the identity stands nowhere. -/
theorem continueAsk_settled {s t : State} {h : Holder} {a : Addr} (hs : s.IdentitiesLawful)
    (hv : validIdentity h.identity = true) (hbar : h.identity ∉ s.barred) (ha : h.identity ∈ (s.binding a).parties)
    (ht : s.Shrinks t) (hn : h.identity ∉ (t.binding a).parties) : (continueAsk h t).state.IdentitiesLawful := by
  refine continueAsk_identities (ht.identities hs) hv (fun hb => hbar (ht.barred.subset hb)) (fun c hc => ?_)
  have hca := party_unique hs.1 ha ((ht.parties c).subset hc)
  subst hca
  exact absurd hc hn

theorem decideAsk_identities {s : State} {h : Holder} (hs : s.IdentitiesLawful) (hv : validIdentity h.identity = true)
    (hbar : h.identity ∉ s.barred) : (decideAsk h s).state.IdentitiesLawful := by
  by_cases hn : ∀ c, h.identity ∉ (s.binding c).parties
  · rw [decideAsk_nowhere hn]
    exact continueAsk_identities hs hv hbar (fun c hc => absurd hc (hn c))
  · simp only [Classical.not_forall, Classical.not_not] at hn
    obtain ⟨a, ha⟩ := hn
    cases hb : s.binding a with
    | free => simp [hb, Binding.parties] at ha
    | reserved _ | held _ _ =>
      have hst : (s.binding a).state = .reserved ∨ (s.binding a).state = .held := by simp [hb, Binding.state]
      rw [decideAsk_own hs.1 ha hst]
      exact continueAsk_identities hs hv hbar (fun c hc => by rw [party_unique hs.1 ha hc]; exact hst)
    | offered k o r =>
      simp only [hb, Binding.parties, List.mem_singleton] at ha
      rw [decideAsk_offered hs.1 hb ha.symm]
      exact (State.shrinks_setBinding (by simp [hb, Binding.parties, Holder.on]) (by simp [hb, Binding.state])).identities hs
    | bound k l v p =>
      simp only [hb, Binding.parties, List.mem_singleton] at ha
      rw [decideAsk_bound hs.1 hb ha.symm]
      exact (State.shrinks_setBinding (by simp [hb, Binding.parties, Holder.on]) (by simp [hb, Binding.state])).identities hs
    | contested k l v p c r =>
      have hnodup := (hs.1.1 a).1
      have hsub := ha
      simp only [hb, Binding.parties, List.mem_cons, List.not_mem_nil, or_false, List.nodup_cons] at ha hnodup
      rcases ha with hx | hx
      · rw [decideAsk_incumbent hs.1 hb hx.symm]
        refine continueAsk_settled hs hv hbar hsub (Edits.keepChallenger (short := True) hb).shrinks ?_
        simp only [State.keepChallenger_binding, Binding.parties, Challenger.asHolder, List.mem_singleton]
        exact fun he => hnodup.1 (hx.symm.trans he)
      · rw [decideAsk_challenger hs.1 hb hx.symm]
        refine continueAsk_settled hs hv hbar hsub (State.shrinks_setBinding ?_ (by simp [hb, Binding.state])) ?_
        · simp [hb, Binding.parties]
        · simp only [State.binding_setBinding, if_pos, Binding.parties, List.mem_singleton]
          exact fun he => hnodup.1 (he.symm.trans hx)

/-- ASK keeps the laws of the identities. -/
theorem runAsk_identities {s : State} {seg : Segment} {b : Identity × Byte × Tag} (hv : validIdentity b.1 = true)
    (hs : s.IdentitiesLawful) : (runAsk seg b s).state.IdentitiesLawful := by
  unfold runAsk
  dsimp only
  split
  · exact hs
  all_goals
    split
    · exact hs
    · rename_i hbar
      exact decideAsk_identities hs hv (by simpa [State.isBarred] using hbar)

/-! ### CLAIM and RESERVE -/

/-- A claimant placed in the claimed record. -/
theorem State.identities_settleClaimant {s u : State} {x : Identity} {a : Addr} (hs : s.IdentitiesLawful)
    (hv : validIdentity x = true) (hbar : x ∉ s.barred)
    (hheld : ∀ b, b ≠ a → x ∈ (s.binding b).parties → (s.binding b).state = .held)
    (hu : ∀ c, c ≠ a → u.binding c = s.binding c) (hadm : u.admission = s.admission) (hbarred : u.barred = s.barred)
    (hnodup : (u.binding a).parties.Nodup)
    (hhere : ∀ y ∈ (u.binding a).parties, y = x ∨ (y ∈ (s.binding a).parties ∧ (s.binding a).state ≠ .reserved)) :
    (u.settleClaimant x a).IdentitiesLawful := by
  have ha := u.binding_settleClaimant x a
  have hshrink : u.Shrinks (u.settleClaimant x a) :=
    (u.shrinks_forgetElsewhere x a).trans (State.shrinks_removeEntry x _)
  refine State.Places.identities (x := x) (a := a) ⟨hv, hbar, fun c hc => ⟨?_, ?_, fun hr => ?_⟩, ?_, ?_, ?_, .inr ?_, ?_⟩ hs
  · rw [← hu c hc]; exact hshrink.parties c
  · simp only [State.settleClaimant, State.removeEntry_keeps]
    refine State.forgetElsewhere_others hc (fun b d hb hd hbx hdx => ?_) (fun b hb hbx => ?_)
    · rw [hu b hb] at hbx
      rw [hu d hd] at hdx
      exact (party_unique hs.1 hbx hdx).symm
    · rw [hu b hb] at hbx ⊢
      exact hheld b hb hbx
  · rw [← hu c hc] at hr; exact hshrink.reserved c hr
  · rw [ha]; exact hnodup
  · rw [ha]; exact hhere
  · rw [← hadm]; exact hshrink.entries
  · exact State.entries_removeEntry x _
  · rw [← hbarred]; exact hshrink.barred

/-- A CLAIM that is answered by the claimed address keeps the laws. -/
theorem claimAt_identities {s : State} {a : Addr} {x : Identity} (c : Byte) (seg : Segment) (hs : s.IdentitiesLawful)
    (hv : validIdentity x = true) (hbar : x ∉ s.barred)
    (hheld : ∀ b, b ≠ a → x ∈ (s.binding b).parties → (s.binding b).state = .held) :
    (claimAt a x c seg s).state.IdentitiesLawful := by
  have hbinds : ∀ {h : Holder} {l : Lease} {v : Bool} {status : Status}, h.identity = x →
      (claimBinds h l v status a s).state.IdentitiesLawful := by
    rintro h l v status rfl
    exact State.identities_settleClaimant hs hv hbar hheld (fun b hb => by simp [hb]) (by simp) (by simp)
      (by simp [Binding.parties]) (by simp [Binding.parties])
  unfold claimAt
  split
  · split
    · exact hbinds rfl
    · exact hs
  · split
    · exact hbinds rfl
    · exact hs
  · split
    · exact hbinds rfl
    · exact hs
  · rename_i h l v r hb
    split
    · unfold claimRefreshes
      split <;>
        exact State.identities_settleClaimant hs hv hbar hheld (fun b hb => by simp [hb]) (by simp) (by simp)
          (by simp [Binding.parties]) (by simp [Binding.parties])
    · rename_i hne
      refine (State.Shrinks.of_same ?_ ?_ ?_).identities (State.identities_settleClaimant
        (u := s.setBinding a (.contested h l.frozen v r ⟨x, c, seg⟩ s.contestCount)) (x := x) (a := a) hs hv hbar hheld
        (fun b hb => by simp [hb]) (by simp) (by simp) (by simpa [Binding.parties] using hne) ?_)
      · simp [claimContests, claimAnswer]
      · simp [claimContests, claimAnswer]
      · simp [claimContests, claimAnswer]
      · intro y hy
        simp only [State.binding_setBinding, if_pos, Binding.parties, List.mem_cons, List.not_mem_nil, or_false] at hy
        rcases hy with rfl | rfl
        · exact .inr ⟨by simp [hb, Binding.parties], by simp [hb, Binding.state]⟩
        · exact .inl rfl
  · split
    · exact hbinds rfl
    · exact hs
  · exact hs
  · split <;> exact hs

/-- CLAIM keeps the laws of the identities. -/
theorem runClaim_identities {s : State} {seg : Segment} {a : Addr} {b : Identity × Byte} (hv : validIdentity b.1 = true)
    (hs : s.IdentitiesLawful) : (runClaim seg a b s).state.IdentitiesLawful := by
  unfold runClaim
  dsimp only
  split
  · exact hs
  · rename_i hbar
    split
    · exact hs
    · rename_i hnone
      refine claimAt_identities _ _ hs hv (by simpa [State.isBarred] using hbar) (fun c hc hx => ?_)
      have := List.find?_eq_none.mp hnone c (mem_allAddrs c)
      simp only [Bool.and_eq_true, decide_eq_true_eq, not_and, Bool.not_eq_true] at this
      have := this hc
      refine Classical.byContradiction (fun hstate => ?_)
      rw [Binding.movedBy_iff.mpr ⟨hx, hstate⟩] at this
      cases this

theorem State.anonymizeOther_eq (x : Identity) (a : Addr) (s : State) : s.anonymizeOther x a = s.forgetElsewhere x a := by
  have hp : (fun b => decide (b ≠ a) && decide ((s.binding b).state = .held) && (s.binding b).stands x)
      = fun b => decide (b ≠ a) && isHeldBy x (s.binding b) := by
    funext b
    rw [Bool.and_assoc, Bool.eq_iff_iff]
    simp only [Bool.and_eq_true, Binding.stands_iff, isHeldBy_iff, decide_eq_true_eq]
    exact and_congr_right (fun _ => and_comm)
  unfold State.anonymizeOther
  rw [hp]
  rfl

/-- RESERVE keeps the laws of the identities. -/
theorem reserveAddress_identities {s : State} {p : Addr × Reservation} (hv : validIdentity p.2.identity = true)
    (hs : s.IdentitiesLawful) : (reserveAddress p s).state.IdentitiesLawful := by
  obtain ⟨a, r⟩ := p
  unfold reserveAddress
  dsimp only
  split
  · exact hs
  · rename_i htest
    simp only [Bool.or_eq_true, not_or, Bool.not_eq_true, Bool.not_eq_true', Bool.not_eq_false] at htest
    obtain ⟨⟨hbar, hres⟩, helse⟩ := htest
    have hheld : ∀ b, b ≠ a → r.identity ∈ (s.binding b).parties → (s.binding b).state = .held := by
      intro b hb hx
      refine Classical.byContradiction (fun hst => ?_)
      simp only [State.standsElsewhere, List.any_eq_false, Bool.and_eq_true, decide_eq_true_eq, not_and, Classical.not_not] at helse
      exact hst (helse b (mem_allAddrs b) ⟨hb, Binding.stands_iff.mpr hx⟩)
    rw [State.anonymizeOther_eq]
    have hshrink := s.shrinks_forgetElsewhere r.identity a
    refine State.Places.identities (x := r.identity) (a := a)
      ⟨hv, by simpa [State.isBarred] using hbar, fun c hc => ?_, ?_, ?_, ?_, .inl ?_, ?_⟩ hs
    · rw [State.goReserved_others _ hc]
      exact ⟨hshrink.parties c, State.forgetElsewhere_others hc
        (fun b d _ _ hbx hdx => (party_unique hs.1 hbx hdx).symm) hheld, hshrink.reserved c⟩
    · simp [Binding.parties]
    · simp [Binding.parties]
    · simpa using hshrink.entries
    · simp [Binding.state]
    · simpa using hshrink.barred

/-! ### APPROVE, DENY and BAR -/

/-- APPROVE keeps the laws of the identities. -/
theorem approve_identities {s : State} (x : Identity) (hs : s.IdentitiesLawful) : (approve x s).state.IdentitiesLawful := by
  unfold approve
  split
  · exact hs
  · split
    · exact hs
    · rename_i e he
      split
      · exact hs
      · obtain ⟨hmem, _⟩ := State.entryOf_some he
        obtain ⟨hbar, hv, hres⟩ := hs.2.1.2.2 e hmem
        unfold offerFromEntry
        dsimp only
        split
        · rename_i a o ha
          exact State.identities_offerOwn (h := ⟨e.identity, e.cls, e.tag, e.segment⟩) hs hv hbar ha
        · rename_i hown
          split
          · refine State.identities_offerNewcomer hs hv hbar (fun c hc => ?_)
            obtain ⟨o, ho⟩ := State.ownAddr_at hs.1 hc (.inl (hres c hc))
            rw [hown] at ho; cases ho
          · exact hs

theorem State.addBarred_new {x : Identity} {s : State} (h : s.isBarred x = false) :
    s.addBarred x = { s with barred := insertBefore (fun y => decide (identityKey x < identityKey y)) x s.barred } := by
  simp [State.addBarred, h]

/-- DENY keeps the laws of the identities. -/
theorem deny_identities {s : State} (p : Identity × Bool) (hs : s.IdentitiesLawful) : (deny p s).state.IdentitiesLawful := by
  obtain ⟨x, bar⟩ := p
  unfold deny
  dsimp only
  split
  · exact hs
  · rename_i hentry
    split
    · split
      · exact hs
      · rename_i hroom
        simp only [Bool.not_eq_true', Bool.not_eq_false, State.hasEntry, List.any_eq_true, decide_eq_true_eq] at hentry
        obtain ⟨e, he, rfl⟩ := hentry
        obtain ⟨hbar, _, hres⟩ := hs.2.1.2.2 e he
        rw [State.addBarred_new (by simpa [State.isBarred] using hbar)]
        exact State.identities_barred (State.shrinks_removeEntry e.identity s) rfl hbar
          (by simpa [Config.barredPlaces] using hroom) (State.entries_removeEntry _ _) hres hs
    · exact (State.shrinks_removeEntry x s).identities hs

theorem State.goHeldAnonymous_parties (a : Addr) (s : State) : ((s.goHeldAnonymous a).binding a).parties = [] := by
  unfold State.goHeldAnonymous
  split <;> simp [State.enterHold, Binding.parties]

theorem State.revokeOffer_parties (h : Holder) (o : Origin) (a : Addr) (s : State) :
    ((s.revokeOffer h o a).binding a).parties = [] ∨ ((s.revokeOffer h o a).binding a).state = .reserved := by
  cases o with
  | free => exact .inl (by simp [State.revokeOffer, Binding.parties])
  | held => exact .inl (s.goHeldAnonymous_parties a)
  | reserved k => exact .inr (by simp [State.revokeOffer, Binding.state])

theorem State.expel_parties (h : Holder) (l : Lease) (v : Bool) (a : Addr) (s : State) :
    ((s.expel h l v a).binding a).parties = [] ∨ ((s.expel h l v a).binding a).state = .reserved := by
  cases v with
  | false => exact .inl (by simpa [State.expel] using s.goHeldAnonymous_parties a)
  | true => exact .inr (by simp [State.expel, Binding.state])

/-- What BAR does to the binding leaves the identity no standing there but a reservation (R76). -/
theorem State.barBinding_at {s : State} {x : Identity} {a : Addr} (hs : (s.binding a).parties.Nodup)
    (ha : x ∈ ((s.barBinding x a).binding a).parties) : ((s.barBinding x a).binding a).state = .reserved := by
  have hempty : ∀ {b : Binding}, b.parties = [] ∨ b.state = .reserved → x ∈ b.parties → b.state = .reserved := by
    intro b h hx
    exact h.resolve_left (fun he => by rw [he] at hx; cases hx)
  unfold State.barBinding at *
  split at ha
  · exact hempty (s.revokeOffer_parties _ _ a) ha
  · simp only [State.sendVacate_keeps] at ha ⊢
    exact hempty (s.expel_parties _ _ _ a) ha
  · rename_i h l v p c r hb
    rw [hb] at hs
    simp only [Binding.parties, List.nodup_cons, List.mem_singleton] at hs
    split at ha
    · rename_i hx
      simp only [State.sendVacate_keeps, State.keepChallenger_binding, Binding.parties, Challenger.asHolder,
        List.mem_singleton] at ha
      exact absurd (hx.trans ha) hs.1
    · rename_i hx
      simp only [State.sendVacate_keeps, State.keepIncumbent_binding, Binding.parties, List.mem_singleton] at ha
      exact absurd ha.symm hx
  · rename_i o r hb
    rw [State.makeAnonymous_binding, hb] at ha
    cases o <;> simp [Binding.parties] at ha
  · rename_i hb; rw [hb] at ha; cases ha
  · rename_i hb; rw [hb]; rfl

theorem State.barred_barBinding (x : Identity) (a : Addr) (s : State) : (s.barBinding x a).barred = s.barred := by
  unfold State.barBinding
  (repeat' split) <;> simp

/-- BAR keeps the laws of the identities. -/
theorem barIdentity_identities {s : State} (x : Identity) (hs : s.IdentitiesLawful) :
    (barIdentity x s).state.IdentitiesLawful := by
  unfold barIdentity
  dsimp only
  split
  · exact hs
  · rename_i hbar
    have hbar : s.isBarred x = false := by simpa using hbar
    have hnew : x ∉ s.barred := by simpa [State.isBarred] using hbar
    split
    · exact hs
    · rename_i hroom
      have hroom : s.barred.length < 16 := by simpa [Config.barredPlaces] using hroom
      rw [State.addBarred_new hbar]
      split
      · rename_i a ha
        have ha := State.findBinding_some ha
        have hx : x ∈ (s.binding a).parties := Binding.stands_iff.mp ha
        let u : State := State.removeEntry x
          { s with barred := insertBefore (fun y => decide (identityKey x < identityKey y)) x s.barred }
        change (u.barBinding x a).IdentitiesLawful
        have hshrink : u.Shrinks (u.barBinding x a) := (Edits.barBinding (short := True) x a u).shrinks
        have hfromS : s.Shrinks { u.barBinding x a with barred := s.barred } :=
          (State.shrinks_removeEntry x s).trans ⟨hshrink.parties, hshrink.reserved, hshrink.entries, .refl _⟩
        refine State.identities_barred hfromS ?_ hnew hroom ?_ ?_ hs
        · rw [State.barred_barBinding]; rfl
        · exact fun he => State.entries_removeEntry x _ (hshrink.entries.subset he)
        · intro c hc
          by_cases hca : c = a
          · subst hca; exact State.barBinding_at (s := u) (hs.1.1 c).1 hc
          · exact absurd (party_unique hs.1 hx ((hshrink.parties c).subset hc)) hca
      · rename_i hnone
        refine State.identities_barred (State.shrinks_removeEntry x s) rfl hnew hroom (State.entries_removeEntry _ _)
          (fun c hc => ?_) hs
        have := List.find?_eq_none.mp hnone c (mem_allAddrs c)
        exact absurd (Binding.stands_iff.mpr hc) this

/-! ### Rows -/

theorem identityOf?_valid {bs : List Byte} {x : Identity} (h : identityOf? bs = some x) : validIdentity x = true := by
  unfold identityOf? at h
  split at h
  · dsimp only at h
    split at h
    · rename_i hv; cases h; exact hv
    · cases h
  · cases h

theorem askBody?_valid {bs : List Byte} {b : Identity × Byte × Tag} (h : askBody? bs = some b) :
    validIdentity b.1 = true := by
  unfold askBody? at h
  split at h
  · rename_i hx _
    split at h
    · split at h
      · cases h
      · cases h; exact identityOf?_valid hx
    · cases h
  · cases h

theorem claimBody?_valid {bs : List Byte} {b : Identity × Byte} (h : claimBody? bs = some b) :
    validIdentity b.1 = true := by
  unfold claimBody? at h
  split at h
  · rename_i hx _
    split at h
    · cases h
    · cases h; exact identityOf?_valid hx
  · cases h

theorem reserveParams?_valid {ps : List Byte} {p : Addr × Reservation} (h : reserveParams? ps = some p) :
    validIdentity p.2.identity = true := by
  unfold reserveParams? at h
  split at h
  · split at h
    · rename_i hx _
      split at h
      · split at h
        · cases h
        · cases h; exact identityOf?_valid hx
      · cases h
    · cases h
  · cases h

theorem State.identities_deliver {s : State} {seg : Segment} {f : Frame} {r : Answer} (h : r.state.IdentitiesLawful) :
    (s.deliver seg f r).IdentitiesLawful :=
  (State.Shrinks.of_same (by simp [State.deliver]) (by simp [State.deliver]) (by simp [State.deliver])).identities h

theorem State.identities_turnAway {s : State} {seg : Segment} {f : Frame} {status : Status} {rest : List Byte}
    (h : s.IdentitiesLawful) : (s.turnAway seg f status rest).IdentitiesLawful :=
  (State.Shrinks.of_same (by simp [State.turnAway]) (by simp [State.turnAway]) (by simp [State.turnAway])).identities h

theorem State.identities_takeFrame {s : State} {ok : Byte → Bool} {seg : Segment} {serve : Frame → State → State}
    (hs : s.IdentitiesLawful) (h : ∀ f t, t.IdentitiesLawful → (serve f t).IdentitiesLawful) :
    (s.takeFrame ok seg serve).IdentitiesLawful := by
  unfold State.takeFrame
  split
  · exact hs
  · split
    · exact hs
    · split
      · have hfreed : ∀ c, (s.setLine seg c).IdentitiesLawful := fun c =>
          (State.Shrinks.of_same (by simp) (by simp) (by simp)).identities hs
        dsimp only
        split
        · exact hfreed _
        · exact h _ _ (hfreed _)
      · exact hs

theorem State.identities_runCommand {s : State} {ok : Byte → Bool} {α : Type} {parse : List Byte → Option α}
    {run : α → State → HostAnswer} (hs : s.IdentitiesLawful)
    (h : ∀ ps x, parse ps = some x → (run x s).state.IdentitiesLawful) :
    (s.runCommand ok (withParams parse run)).IdentitiesLawful := by
  have hcomplete : ∀ r : HostAnswer, r.state.IdentitiesLawful → (s.complete r).IdentitiesLawful := fun r hr =>
    (State.Shrinks.of_same (by simp [State.complete]) (by simp [State.complete]) (by simp [State.complete])).identities hr
  unfold State.runCommand
  split
  · exact hs
  · split
    · split
      · refine hcomplete _ ?_
        unfold withParams
        split
        · rename_i x hx; exact h _ x hx
        · exact hs
      · exact hs
    all_goals exact hs

/-- Every row keeps the laws of the identities. -/
theorem exec_identities {c : Instr} {s t : State} (h : exec c s = .next t) (hs : s.IdentitiesLawful) :
    t.IdentitiesLawful := by
  cases hc : c.introduces with
  | false =>
    have he := exec_edits h
    rw [hc] at he
    exact he.shrinks.identities hs
  | true =>
    cases c
    case ask seg =>
      cases h
      refine State.identities_takeFrame hs (fun f t ht => ?_)
      unfold State.serveUnaddressed
      split
      · split
        · exact State.identities_turnAway ht
        · rename_i hx; exact State.identities_deliver (runAsk_identities (askBody?_valid hx) ht)
      · exact State.identities_turnAway ht
    case claim seg =>
      cases h
      refine State.identities_takeFrame hs (fun f t ht => ?_)
      unfold State.serveClaimant
      split
      · exact State.identities_turnAway ht
      · split
        · exact State.identities_turnAway ht
        · rename_i hx; exact State.identities_deliver (runClaim_identities (claimBody?_valid hx) ht)
    case reserve => cases h; exact State.identities_runCommand hs (fun _ _ hx => reserveAddress_identities (reserveParams?_valid hx) hs)
    case approve => cases h; exact State.identities_runCommand hs (fun _ x _ => approve_identities x hs)
    case bar => cases h; exact State.identities_runCommand hs (fun _ x _ => barIdentity_identities x hs)
    case deny => cases h; exact State.identities_runCommand hs (fun _ p _ => deny_identities p hs)
    all_goals cases hc

/-- Settles O54: a row that introduces no identity leaves fewer standings, and the six others place one where it may
stand. -/
theorem stepKeepsTheIdentities : Obligations.StepKeepsTheIdentities := by
  intro s t
  exact step_keeps (fun _ _ h => h) exec_identities

end Sys2Proof.Machine
end

section
/-! PROOFS. The queue of commands, what the resets leave, and how a reset holds the part. -/

namespace Sys2Proof.Machine

/-- Settles O1: a step is the row of the command in front. -/
theorem stepRunsTheFrontCommand : Obligations.StepRunsTheFrontCommand :=
  ⟨fun _ _ _ => rfl, fun s h => by unfold step; rw [h]⟩

/-! ### The reset state -/

theorem line_reset (k : Segment) : State.reset.line k = Controller.reset := by cases k <;> rfl

theorem listing_reset (k : Segment) : State.reset.listing k = none := by cases k <;> rfl

/-- Settles O2: block by block. -/
theorem resetStateOfEveryBlock : Obligations.ResetStateOfEveryBlock := by
  refine ⟨binding_reset, rfl, rfl, rfl, rfl, rfl, rfl, rfl, rfl, group_reset, rfl, fun seg => ?_, rfl, rfl, rfl, rfl, ?_,
    rfl, rfl, by decide⟩
  · refine ⟨listing_reset seg, ?_⟩
    cases seg <;> exact ⟨rfl, rfl, rfl, rfl, rfl, rfl, rfl⟩
  · intro f
    cases f <;> decide

/-- Settles O52: after a reset every binding is FREE and every queue but the free queue is empty. -/
theorem resetHoldsTheLaws : Obligations.ResetHoldsTheLaws := by
  have hoff : State.reset.offeredCount = 0 := by
    simp [State.offeredCount, State.countBindings, binding_reset, Binding.state]
  have hpool : State.reset.PoolAccounts := by
    refine ⟨?_, fun g => by rw [group_reset]; rfl⟩
    simp only [group_reset, GroupRecord.members]
    rfl
  have hfit : State.reset.RecordsFit := ⟨fun a => by rw [binding_reset]; rfl, nofun⟩
  refine ⟨queues_reset, ?_, ⟨?_, nofun⟩, ⟨by decide, rfl, fun a => by rw [binding_reset]; rfl, nofun⟩, hpool,
    fun g a ha => ?_, ?_, ?_, ⟨.nil, fun _ => rfl⟩, State.reset.framesFit_iff.mpr ⟨hfit, rfl, fun seg => ?_⟩⟩
  · refine ⟨⟨fun a => ?_, fun a b _ x hx => ?_⟩, ⟨Nat.zero_le _, .nil, nofun⟩, ⟨Nat.zero_le _, .nil, .nil, nofun⟩⟩
    · rw [binding_reset]; exact ⟨.nil, nofun⟩
    · rw [binding_reset] at hx; cases hx
  · rw [hoff]; exact Nat.zero_le _
  · rw [group_reset] at ha; cases ha
  · exact (State.linesLawful_iff _).mpr (fun k => by rw [line_reset]; exact Controller.lawful_reset)
  · exact (State.listingsLawful_iff _).mpr
      ⟨fun k => ⟨fun _ => by rw [State.awaited, line_reset]; rfl, fun l hl => by rw [listing_reset] at hl; cases hl⟩,
        fun k l hl => by rw [listing_reset] at hl; cases hl⟩
  · refine ⟨fun q hq => ?_, fun f hf => ?_, fun l hl => ?_⟩
    · rw [line_reset] at hq; cases hq
    · rw [line_reset] at hf; cases hf
    · rw [listing_reset] at hl; cases hl

/-! ### During a reset -/

/-- Every row but the resets and the end of a reset waits while a reset holds the part (log 10). -/
theorem exec_inReset {i : Instr} {s : State} (h : s.inReset ≠ none) (h1 : i ≠ .powerOnReset) (h2 : i ≠ .pinReset)
    (h3 : i ≠ .resetEnd) : exec i s = .next s := by
  have hsome : s.inReset.isSome = true := Option.isSome_iff_ne_none.mpr h
  have htake : ∀ ok seg serve, s.takeFrame ok seg serve = s := by intros; simp [State.takeFrame, hsome]
  have hrun : ∀ ok run, s.runCommand ok run = s := by intros; simp [State.runCommand, hsome]
  have hline : ∀ seg act, s.onLine seg act = s := by intros; simp [State.onLine, hsome]
  have hport : ∀ kind finish edge, s.exchange kind finish edge = s := by intros; simp [State.exchange, hsome]
  have htimers : s.timersRun = false := by simp [State.timersRun, h]
  have haddr : ∀ act b, s.atAddress act b = s := by intros; simp [State.atAddress, htimers]
  cases i
  case powerOnReset => exact absurd rfl h1
  case pinReset => exact absurd rfl h2
  case resetEnd => exact absurd rfl h3
  case ask | take | claim | renew | release | retag | resolve | reverse | find | list | listAck | join | leave | members
      | unknownKindFrame => exact congrArg _ (htake _ _ _)
  case offerLapse | leaseExpiry | holdExpiry | contestExpiry => exact congrArg _ (haddr _ _)
  case characterReceived | transmissionStart | backoffExpiry | headFrameCutOff => exact congrArg _ (hline _ _)
  case statusRead | fetch | commandFrame => exact congrArg _ (hport _ _ _)
  case admissionWaitExpiry | recallWindowExpiry => exact congrArg Host.Outcome.next (if_neg (by simp [htimers]))
  case frameEnd | collision | frameSent | ackTimerExpiry => exact congrArg Host.Outcome.next (if_pos hsome)
  case secondsBoundary => exact congrArg Host.Outcome.next (if_pos hsome)
  all_goals exact congrArg _ (hrun _ _)

/-- The parity of the ones of a byte, counted (R157). -/
theorem oddOnes_eq (b : Byte) : oddOnes b = decide ((List.range 8).countP (fun i => b.getLsbD i) % 2 = 1) := by
  have hrange : List.range 8 = [0, 1, 2, 3, 4, 5, 6, 7] := rfl
  have hcount : ∀ b0 b1 b2 b3 b4 b5 b6 b7 : Bool, (b0 ^^ b1 ^^ b2 ^^ b3 ^^ b4 ^^ b5 ^^ b6 ^^ b7)
      = decide ([b0, b1, b2, b3, b4, b5, b6, b7].countP id % 2 = 1) := by decide
  have hbits : (List.range 8).countP (fun i => b.getLsbD i) = ([0, 1, 2, 3, 4, 5, 6, 7].map b.getLsbD).countP id := by
    rw [List.countP_map, hrange]; rfl
  rw [hbits]
  exact hcount ..

/-- Settles O3: in reset the resets alone act. -/
theorem resetsHoldThePart : Obligations.ResetsHoldThePart := by
  refine ⟨fun _ => rfl, fun _ => rfl, fun s c h => ?_, fun s c h => ?_, fun i s => exec_inReset, fun s h => ⟨?_, fun seg => ?_⟩⟩
  · show Host.Outcome.next s.endReset = _
    rw [State.endReset, h]
  · refine ⟨by simp [State.attn, h], by simp [State.misoDriven, h], fun seg => ?_⟩
    have hd : s.driverEnabled seg = false := by simp [State.driverEnabled, h]
    exact ⟨hd, by simp [State.transmitPin, hd]⟩
  · simp [State.misoDriven, h, Option.isSome_iff_ne_none]
  · have hd : s.driverEnabled seg = true ↔ ∃ k, (s.line seg).line = .transmitting k := by
      unfold State.driverEnabled
      rw [h]
      cases (s.line seg).line <;> simp
    refine ⟨hd, fun hf => by simp [State.transmitPin, hf], fun f q hl hq => ?_⟩
    rw [State.transmitPin, if_pos (hd.mpr ⟨_, hl⟩), hl, hq]
    refine congrArg (fun g => TransmitPin.sending (f.frame.bytes.flatMap g)) (funext fun b => ?_)
    obtain ⟨baud, parity, stop⟩ := (s.line seg).format
    have heven : (!oddOnes b) = decide ((List.range 8).countP (fun i => b.getLsbD i) % 2 = 0) := by
      rw [oddOnes_eq, ← decide_not]
      congr 1
      exact propext (by omega)
    cases parity
    case none => rfl
    case even => unfold charLevels; dsimp only; rw [oddOnes_eq]; rfl
    case odd => unfold charLevels; dsimp only; rw [heven]; rfl

end Sys2Proof.Machine
end

section
/-! PROOFS. The classes of request kinds: how the row of each kind serves its frame, and the tests that turn a frame away
before anything is executed (R30 to R35, R46). -/

namespace Sys2Proof.Machine

/-! ### How the row of a kind serves its frame -/

/-- How the frames of a kind are served, by the class of its sources (R32), with the reading of its body (R34). -/
inductive ServedBy (k : Byte) (seg : Segment) : (Frame → State → State) → Prop
  /-- from 0x00 alone -/
  | unaddressed {α : Type} (parse : List Byte → Option α) (run : Segment → α → State → Answer)
      (hw : ∀ f, f.kind = k → wrongSource f = decide (f.source ≠ 0))
      (hb : ∀ f, f.kind = k → bodyAccepted f = (parse f.body).isSome) (hn : k ∉ kindListAck :: sequenceKinds) :
      ServedBy k seg (State.serveUnaddressed parse run seg)
  /-- from a short address that claims it -/
  | claimant {α : Type} (parse : List Byte → Option α) (run : Segment → Addr → α → State → Answer)
      (hw : ∀ f, f.kind = k → wrongSource f = (addrOf? f.source).isNone)
      (hb : ∀ f, f.kind = k → bodyAccepted f = (parse f.body).isSome) (hn : k ∉ kindListAck :: sequenceKinds) :
      ServedBy k seg (State.serveClaimant parse run seg)
  /-- from 0x00 or a bound address -/
  | either {α : Type} (parse : List Byte → Option α) (run : α → State → Answer)
      (hw : ∀ f, f.kind = k → wrongSource f = (decide (f.source ≠ 0) && (addrOf? f.source).isNone))
      (hb : ∀ f, f.kind = k → bodyAccepted f = (parse f.body).isSome) (hc : k ≠ kindClaim) :
      ServedBy k seg (State.serveEither parse run seg)
  /-- from a bound address, with what an OK leads to -/
  | bound {α : Type} (serve : Frame → State → State) (parse : List Byte → Option α)
      (run : Segment → Addr → α → State → Answer) (after : Frame → Segment → Addr → α → State → State)
      (hw : ∀ f, f.kind = k → wrongSource f = (addrOf? f.source).isNone)
      (hb : ∀ f, f.kind = k → bodyAccepted f = (parse f.body).isSome) (hc : k ≠ kindClaim)
      (hout : ∀ f s, addrOf? f.source = none → serve f s = s.turnAway seg f .badreq (badreqRest f))
      (hin : ∀ f s a, addrOf? f.source = some a → serve f s = s.serveAddressed parse run (after f) a seg f) :
      ServedBy k seg serve
  /-- from a bound address, outside the sequence mechanism -/
  | listAck (hk : k = kindListAck) : ServedBy k seg (State.serveListAck seg)

theorem ServedBy.ofBound {k : Byte} {seg : Segment} {α : Type} {parse : List Byte → Option α}
    {run : Segment → Addr → α → State → Answer} (hw : ∀ f, f.kind = k → wrongSource f = (addrOf? f.source).isNone)
    (hb : ∀ f, f.kind = k → bodyAccepted f = (parse f.body).isSome) (hc : k ≠ kindClaim) :
    ServedBy k seg (State.serveBound parse run seg) :=
  .bound _ parse run (fun _ => nothingAfter) hw hb hc (fun f s h => by simp [State.serveBound, h]) (fun _ _ _ h => State.serveBound_addr h)

/-- The tables of R32 and R34, read at one kind. -/
theorem wrongSource_kind {k : Byte} {f : Frame} {b : Bool} (h : f.kind = k)
    (hb : wrongSource { f with kind := k } = b) : wrongSource f = b := by subst h; exact hb

theorem bodyAccepted_kind {k : Byte} {f : Frame} {b : Bool} (h : f.kind = k)
    (hb : bodyAccepted { f with kind := k } = b) : bodyAccepted f = b := by subst h; exact hb

/-- The row of each request kind takes its frame and serves it by its class (R30, R32). -/
theorem requestRow_servedBy {k : Byte} (hk : k ∈ requestKinds) (seg : Segment) :
    ∃ serve, ServedBy k seg serve ∧ ∀ s, exec (requestRow k seg) s = .next (s.takeFrame (isKind k) seg serve) := by
  have source : ∀ {k : Byte} {b : Frame → Bool}, (∀ f, wrongSource { f with kind := k } = b f) →
      ∀ f : Frame, f.kind = k → wrongSource f = b f := fun h f hf => wrongSource_kind hf (h f)
  have body : ∀ {k : Byte} {b : Frame → Bool}, (∀ f, bodyAccepted { f with kind := k } = b f) →
      ∀ f : Frame, f.kind = k → bodyAccepted f = b f := fun h f hf => bodyAccepted_kind hf (h f)
  simp only [requestKinds, List.mem_cons, List.not_mem_nil, or_false] at hk
  rcases hk with rfl | rfl | rfl | rfl | rfl | rfl | rfl | rfl | rfl | rfl | rfl | rfl | rfl | rfl
  · exact ⟨_, .unaddressed askBody? runAsk (source fun _ => rfl) (body fun _ => rfl) (by decide), fun _ => rfl⟩
  · exact ⟨_, .unaddressed takeBody? runTake (source fun _ => rfl) (body fun _ => rfl) (by decide), fun _ => rfl⟩
  · exact ⟨_, .claimant claimBody? runClaim (source fun _ => rfl) (body fun _ => rfl) (by decide), fun _ => rfl⟩
  · exact ⟨_, .ofBound (source fun _ => rfl) (body fun _ => rfl) (by decide), fun _ => rfl⟩ -- RENEW
  · exact ⟨_, .ofBound (source fun _ => rfl) (body fun _ => rfl) (by decide), fun _ => rfl⟩ -- RELEASE
  · exact ⟨_, .ofBound (source fun _ => rfl) (body fun _ => rfl) (by decide), fun _ => rfl⟩ -- RETAG
  · exact ⟨_, .either resolveBody? runResolve (source fun _ => rfl) (body fun _ => rfl) (by decide), fun _ => rfl⟩
  · exact ⟨_, .either reverseBody? runReverse (source fun _ => rfl) (body fun _ => rfl) (by decide), fun _ => rfl⟩
  · exact ⟨_, .ofBound (source fun _ => rfl) (body fun _ => rfl) (by decide), fun _ => rfl⟩ -- FIND
  · exact ⟨_, .bound (State.serveList seg) searchBody? runList
      (fun f g r body t => t.startListing g r f.sequence body.1 (body.2.val + 1)) (source fun _ => rfl) (body fun _ => rfl) (by decide)
      (fun f s h => by simp only [State.serveList, h]) (fun f s a h => by simp only [State.serveList, h]), fun _ => rfl⟩
  · exact ⟨_, .listAck rfl, fun _ => rfl⟩
  · exact ⟨_, .ofBound (source fun _ => rfl) (body fun _ => rfl) (by decide), fun _ => rfl⟩ -- JOIN
  · exact ⟨_, .ofBound (source fun _ => rfl) (body fun _ => rfl) (by decide), fun _ => rfl⟩ -- LEAVE
  · exact ⟨_, .either groupBody? runMembers (source fun _ => rfl) (body fun _ => rfl) (by decide), fun _ => rfl⟩

/-- The row of any kind takes its frame. -/
theorem requestRow_takes (k : Byte) (seg : Segment) :
    ∃ ok serve, ok k = true ∧ ∀ s, exec (requestRow k seg) s = .next (s.takeFrame ok seg serve) := by
  by_cases hk : k ∈ requestKinds
  · obtain ⟨serve, _, h⟩ := requestRow_servedBy hk seg
    exact ⟨_, serve, by simp [isKind], h⟩
  · refine ⟨unknownKind, State.serveUnknownKind seg, by simpa [unknownKind] using hk, fun s => ?_⟩
    rw [requestRow_unknown hk]
    rfl

/-! ### The tests before execution -/

section
variable {seg : Segment} {serve : Frame → State → State} {f : Frame} {s : State}

/-- A source outside the class of the kind (R32). -/
theorem ServedBy.wrongSource (h : ServedBy f.kind seg serve) (hw : Machine.wrongSource f = true) :
    serve f s = s.turnAway seg f .badreq (badreqRest f) := by
  cases h with
  | unaddressed parse run hk =>
    rw [hk f rfl, decide_eq_true_eq] at hw
    rw [State.serveUnaddressed, if_neg hw]
  | claimant parse run hk =>
    rw [hk f rfl, Option.isNone_iff_eq_none] at hw
    simp [State.serveClaimant, hw]
  | either parse run hk =>
    rw [hk f rfl, Bool.and_eq_true, decide_eq_true_eq, Option.isNone_iff_eq_none] at hw
    rw [State.serveEither, if_neg hw.1, State.serveBound, hw.2]
  | bound serve parse run after hk hb hc hout =>
    rw [hk f rfl, Option.isNone_iff_eq_none] at hw
    exact hout f s hw
  | listAck hk =>
    have hn : addrOf? f.source = none := by
      rw [wrongSource_kind hk (b := (addrOf? f.source).isNone) rfl, Option.isNone_iff_eq_none] at hw
      exact hw
    simp [State.serveListAck, hn]

/-- A source that is not bound (R33). -/
theorem ServedBy.unbound (h : ServedBy f.kind seg serve) (hk : f.kind ∈ kindListAck :: sequenceKinds) {a : Addr}
    (ha : addrOf? f.source = some a) (hb : (s.binding a).isBound = false) : serve f s = s.turnAway seg f .unknown [] := by
  cases h with
  | unaddressed parse run hw hp hn => exact absurd hk hn
  | claimant parse run hw hp hn => exact absurd hk hn
  | either parse run =>
    rw [State.serveEither, if_neg (source_ne_zero_of_addrOf? ha), State.serveBound_addr ha, State.serveAddressed_unbound hb]
  | bound serve parse run after hw hp hc hout hin => rw [hin f s a ha, State.serveAddressed_unbound hb]
  | listAck => simp [State.serveListAck, ha, hb]

/-- A new request from a bound source with a body its kind cannot use (R34, R43). -/
theorem ServedBy.badBody (h : ServedBy f.kind seg serve) (hk : f.kind ∈ sequenceKinds) {a : Addr} (hn : s.newFrom f a)
    (hbody : bodyAccepted f = false) :
    serve f s = s.deliverCached seg f a { state := s, status := .badreq, rest := badreqRest f } := by
  obtain ⟨ha, hb, hr⟩ := hn
  have haddressed : ∀ {α : Type} {parse : List Byte → Option α} {run : Segment → Addr → α → State → Answer}
      {after : Segment → Addr → α → State → State}, bodyAccepted f = (parse f.body).isSome →
      s.serveAddressed parse run after a seg f
        = s.deliverCached seg f a { state := s, status := .badreq, rest := badreqRest f } := by
    intro α parse run after hp
    rw [hbody, eq_comm, Option.isSome_eq_false_iff, Option.isNone_iff_eq_none] at hp
    rw [State.serveAddressed_new hb hr, hp]
  cases h with
  | unaddressed parse run hw hp hn => exact absurd (List.mem_cons_of_mem _ hk) hn
  | claimant parse run hw hp hn => exact absurd (List.mem_cons_of_mem _ hk) hn
  | either parse run hw hp =>
    rw [State.serveEither, if_neg (source_ne_zero_of_addrOf? ha), State.serveBound_addr ha]
    exact haddressed (hp f rfl)
  | bound serve parse run after hw hp hc hout hin => rw [hin f s a ha]; exact haddressed (hp f rfl)
  | listAck hl => rw [hl] at hk; exact absurd hk (by decide)

/-- A request from 0x00, or a CLAIM, with a body its kind cannot use (R34). -/
theorem ServedBy.badBodyUncached (h : ServedBy f.kind seg serve) (hw : Machine.wrongSource f = false)
    (hk : f.source = 0 ∨ f.kind = kindClaim) (hbody : bodyAccepted f = false) :
    serve f s = s.turnAway seg f .badreq (badreqRest f) := by
  have hparse : ∀ {α : Type} {parse : List Byte → Option α}, bodyAccepted f = (parse f.body).isSome → parse f.body = none := by
    intro α parse hp
    rwa [hbody, eq_comm, Option.isSome_eq_false_iff, Option.isNone_iff_eq_none] at hp
  have hshort : (addrOf? f.source).isNone = false → f.source ≠ 0 := by
    intro h h0
    rw [h0, addrOf?_zero] at h
    cases h
  cases h with
  | unaddressed parse run hs hp hn =>
    rw [hs f rfl, decide_eq_false_iff_not, Classical.not_not] at hw
    simp [State.serveUnaddressed, hw, hparse (hp f rfl)]
  | claimant parse run hs hp hn =>
    rw [hs f rfl] at hw
    obtain ⟨a, ha⟩ := Option.isSome_iff_exists.mp (by rw [← Option.not_isNone, hw]; rfl)
    simp [State.serveClaimant, ha, hparse (hp f rfl)]
  | either parse run hs hp hc =>
    have h0 := hk.resolve_right hc
    simp [State.serveEither, h0, hparse (hp f rfl)]
  | bound serve parse run after hs hp hc hout hin =>
    rw [hs f rfl] at hw
    exact absurd (hk.resolve_right hc) (hshort hw)
  | listAck hl =>
    rw [wrongSource_kind hl (b := (addrOf? f.source).isNone) rfl] at hw
    rw [hl] at hk
    exact absurd (hk.resolve_right (by decide)) (hshort hw)

end

/-- A frame that is served, by the row of its kind. -/
theorem exec_served {seg : Segment} {s : State} {f : Frame} {rest : List Frame} (hs : s.serves seg f rest)
    (hk : f.kind ∈ requestKinds) :
    ∃ serve, ServedBy f.kind seg serve ∧ exec (requestRow f.kind seg) s = .next (serve f (s.freed seg rest)) := by
  obtain ⟨serve, hserve, hexec⟩ := requestRow_servedBy hk seg
  exact ⟨serve, hserve, by rw [hexec, State.takeFrame_serves hs (by simp [isKind])]⟩

theorem sequenceKinds_subset {k : Byte} (hk : k ∈ kindListAck :: sequenceKinds) : k ∈ requestKinds := by
  revert k; decide

/-- Settles O4: the row takes the frame, and the class of its kind turns it away. -/
theorem testsTurnRequestsAway : Obligations.TestsTurnRequestsAway := by
  refine ⟨fun seg s f rest hr hp hq => ?_, fun seg s f rest hs => ⟨fun hk hlow => ?_, fun hk hhigh => ?_, fun hk hw => ?_,
    fun a hk ha hb => ?_, fun a hk hn hbody => ?_, fun hk hw h0 hbody => ?_⟩⟩
  · obtain ⟨ok, serve, hok, hexec⟩ := requestRow_takes f.kind seg
    rw [hexec, State.takeFrame_stopped hr hp hq hok]
  · show Host.Outcome.next (s.takeFrame unknownKind seg (State.serveUnknownKind seg)) = _
    rw [State.takeFrame_serves hs (by simpa [unknownKind] using hk), State.serveUnknownKind, if_pos hlow]
    rfl
  · show Host.Outcome.next (s.takeFrame unknownKind seg (State.serveUnknownKind seg)) = _
    rw [State.takeFrame_serves hs (by simpa [unknownKind] using hk), State.serveUnknownKind, if_neg (Nat.not_lt.mpr hhigh)]
  · obtain ⟨serve, hserve, hexec⟩ := exec_served hs hk
    rw [hexec, hserve.wrongSource hw]
    rfl
  · obtain ⟨serve, hserve, hexec⟩ := exec_served hs (sequenceKinds_subset hk)
    rw [hexec, hserve.unbound hk ha (by simpa using hb)]
    rfl
  · obtain ⟨serve, hserve, hexec⟩ := exec_served hs (sequenceKinds_subset (List.mem_cons_of_mem _ hk))
    rw [hexec, hserve.badBody hk (State.newFrom_freed hn seg rest) hbody, State.deliverCached_same]
    rfl
  · obtain ⟨serve, hserve, hexec⟩ := exec_served hs hk
    rw [hexec, hserve.badBodyUncached hw h0 hbody]
    rfl

/-! ### Contested addresses (R46) -/

theorem runs_contested {s : State} {a : Addr} (hc : (s.binding a).state = .contested) (seg : Segment) :
    (∀ n, runRenew seg a n s = contestedAnswer s) ∧ (∀ u, runRelease seg a u s = contestedAnswer s)
      ∧ (∀ b, runList seg a b s = contestedAnswer s)
      ∧ ∀ act g, groupRequest act seg a g s = contestedAnswer s := by
  cases hb : s.binding a with
  | contested h l v p c r => simp [runRenew, runRelease, runList, groupRequest, contestedAnswer, hb]
  | free | reserved _ | offered _ _ _ | held _ _ | bound _ _ _ _ => simp [hb, Binding.state] at hc

/-- A request of a Bound kind whose execution answers CONTESTED. -/
theorem State.serveBound_contested {α : Type} {parse : List Byte → Option α} {run : Segment → Addr → α → State → Answer}
    {s : State} {seg : Segment} {f : Frame} {rest : List Frame} {a : Addr} (hn : s.newFrom f a)
    (hbody : bodyAccepted f = (parse f.body).isSome) (haccepted : bodyAccepted f = true)
    (hrun : ∀ x, run seg a x (s.freed seg rest) = contestedAnswer (s.freed seg rest)) :
    (s.freed seg rest).serveBound parse run seg f = s.answeredCached seg f rest a .contested [] := by
  obtain ⟨x, hx⟩ := Option.isSome_iff_exists.mp (hbody.symm.trans haccepted)
  rw [State.serveBound_new (State.newFrom_freed hn seg rest) hx, hrun, contestedAnswer, State.deliverCached_same]
  rfl

/-- Settles O6: each of the six executions is the answer CONTESTED, which changes nothing but the cached reply. -/
theorem contestedAddressesAreAnsweredContested : Obligations.ContestedAddressesAreAnsweredContested := by
  intro seg s f rest a hs hk hn hc hbody
  have hc' : ((s.freed seg rest).binding a).state = .contested := by simpa using hc
  obtain ⟨hrenew, hrelease, hlist, hgroup⟩ := runs_contested hc' seg
  have hretag := runRetag_contested hc' seg
  have htake := State.takeFrame_serves hs (ok := isKind f.kind) (by simp [isKind])
  simp only [contestedKinds, List.mem_cons, List.not_mem_nil, or_false] at hk
  rcases hk with hk | hk | hk | hk | hk | hk <;> rw [hk] at htake ⊢
  · exact congrArg _ ((htake _).trans (State.serveBound_contested hn (bodyAccepted_kind hk rfl) hbody hrenew))
  · exact congrArg _ ((htake _).trans (State.serveBound_contested hn (bodyAccepted_kind hk rfl) hbody hrelease))
  · exact congrArg _ ((htake _).trans (State.serveBound_contested hn (bodyAccepted_kind hk rfl) hbody hretag))
  · refine congrArg _ ((htake _).trans ?_)
    obtain ⟨x, hx⟩ := Option.isSome_iff_exists.mp ((bodyAccepted_kind hk (b := (searchBody? f.body).isSome) rfl).symm.trans hbody)
    obtain ⟨ha, hb, hr⟩ := State.newFrom_freed hn seg rest
    simp only [State.serveList, ha]
    rw [State.serveAddressed_new hb hr, hx]
    simp only [hlist]
    rw [contestedAnswer, State.deliverCached_same]
    rfl
  · exact congrArg _ ((htake _).trans (State.serveBound_contested hn (bodyAccepted_kind hk rfl) hbody (hgroup joinGroup)))
  · exact congrArg _ ((htake _).trans (State.serveBound_contested hn (bodyAccepted_kind hk rfl) hbody (hgroup leaveGroup)))

end Sys2Proof.Machine
end

section
/-! PROOFS. The lookups: RESOLVE, REVERSE, FIND and MEMBERS (section 6.1, R148). -/

namespace Sys2Proof.Machine

/-- The row that takes the frame that stands first serves it on the state whose slot is freed (R30). -/
theorem exec_takes {row : Instr} {ok : Byte → Bool} {serve : Frame → State → State} {seg : Segment} {s : State} {f : Frame}
    {rest : List Frame} (hs : s.serves seg f rest) (hk : ok f.kind = true)
    (hrow : exec row s = .next (s.takeFrame ok seg serve)) : exec row s = .next (serve f (s.freed seg rest)) := by
  rw [hrow, State.takeFrame_serves hs hk]

theorem isKind_of_eq {k j : Byte} (h : j = k) : isKind k j = true := by simp [isKind, h]

/-! ### RESOLVE and REVERSE -/

theorem resolvable_iff {x : Identity} {b : Binding} :
    resolvable x b = true ↔ ∃ h, b.holder? = some h ∧ h.identity = x := by
  cases b <;> simp [resolvable, Binding.holder?]

theorem runResolve_found {s : State} {x : Identity} {a : Addr} {h : Holder} (ha : (s.binding a).holder? = some h)
    (hx : h.identity = x) (hu : ∀ b k, (s.binding b).holder? = some k → k.identity = x → b = a) :
    runResolve x s = { state := s, status := .ok,
                       rest := identityBytes x ++ [addrByte a, (s.binding a).state.code, h.cls] } := by
  have hfind : s.findBinding (resolvable x) = some a :=
    State.findBinding_of_unique (resolvable_iff.mpr ⟨h, ha, hx⟩)
      (fun b hb => by obtain ⟨k, hk, hkx⟩ := resolvable_iff.mp hb; exact hu b k hk hkx)
  simp [runResolve, hfind, ha]

theorem runResolve_absent {s : State} {x : Identity} (hn : ∀ a h, (s.binding a).holder? = some h → h.identity ≠ x) :
    runResolve x s = { state := s, status := .ok, rest := identityBytes x ++ [0] } := by
  have hfind : s.findBinding (resolvable x) = none := State.findBinding_none (fun a => by
    rw [← Bool.not_eq_true, resolvable_iff]
    rintro ⟨h, ha, hx⟩
    exact hn a h ha hx)
  simp [runResolve, hfind]

/-- REVERSE discloses the holder of a BOUND or CONTESTED binding alone (R127). -/
theorem disclosed_eq (b : Binding) :
    (b.isBound = false → disclosed b = [])
      ∧ ∀ h, b.isBound = true → b.holder? = some h → disclosed b = identityBytes h.identity ++ (h.cls :: tagField h.tag) := by
  cases b <;> simp [disclosed, Binding.isBound, Binding.holder?]

/-! ### FIND -/

theorem listingEntry_state {filter : Byte} {a : Addr} {b : Binding} {e : ListingEntry}
    (h : listingEntry? filter a b = some e) : e.state = b.state := by
  cases b <;> simp [listingEntry?] at h <;> simp [← h.2, Binding.state]

/-- The first match from a start address on (R128). -/
theorem State.matchesFrom_first {s : State} {filter : Byte} {start b : Addr} {e : ListingEntry} (hb : start ≤ b)
    (he : listingEntry? filter b (s.binding b) = some e)
    (hn : ∀ k, start ≤ k → k < b → listingEntry? filter k (s.binding k) = none) :
    ∃ m, s.matchesFrom filter (start.val + 1) = e :: m := by
  refine filterMap_first (b := b) (pairwise_allAddrs.filter _) ?_ he (fun k hk hkb => hn k ?_ hkb)
  · exact List.mem_filter.mpr ⟨mem_allAddrs b, decide_eq_true (Nat.succ_le_succ hb)⟩
  · exact Nat.le_of_succ_le_succ (of_decide_eq_true (List.mem_filter.mp hk).2)

theorem State.matchesFrom_none {s : State} {filter : Byte} {start : Addr}
    (hn : ∀ k, start ≤ k → listingEntry? filter k (s.binding k) = none) : s.matchesFrom filter (start.val + 1) = [] := by
  unfold State.matchesFrom
  rw [List.filterMap_eq_nil_iff]
  intro k hk
  exact hn k (Nat.le_of_succ_le_succ (of_decide_eq_true (List.mem_filter.mp hk).2))

theorem runFind_found {s : State} {seg : Segment} {a start b : Addr} {filter : Byte} {e : ListingEntry} (hb : start ≤ b)
    (he : listingEntry? filter b (s.binding b) = some e)
    (hn : ∀ k, start ≤ k → k < b → listingEntry? filter k (s.binding k) = none) :
    runFind seg a (filter, start) s =
      { state := s, status := .ok,
        rest := [addrByte b, (s.binding b).state.code, e.cls] ++ identityBytes e.identity } := by
  obtain ⟨m, hm⟩ := State.matchesFrom_first hb he hn
  simp [runFind, hm, ListingEntry.bytes, listingEntry_address he, listingEntry_state he]

theorem runFind_absent {s : State} {seg : Segment} {a start : Addr} {filter : Byte}
    (hn : ∀ k, start ≤ k → listingEntry? filter k (s.binding k) = none) :
    runFind seg a (filter, start) s = { state := s, status := .ok, rest := [0] } := by
  simp [runFind, State.matchesFrom_none hn]

/-- Settles O7: each search of the table finds the record the statement names, and the answer changes nothing else. -/
theorem lookupsAnswerFromTheTable : Obligations.LookupsAnswerFromTheTable := by
  intro seg s f rest hs
  refine ⟨fun x hk hl hx => ⟨fun a h ha hh hu => ?_, fun hn => ?_⟩, fun a hk hl hx => ⟨fun hb => ?_, fun h hb hh => ?_⟩,
    fun a filter start hk hn hx => ⟨fun b e hb he hf => ?_, fun hf => ?_⟩⟩
  · have hrun := runResolve_found (s := s.freed seg rest) (a := a) (by simpa using ha) hh (by simpa using hu)
    rw [exec_takes hs (isKind_of_eq hk) rfl, State.serveEither_lookup hl hx hrun]
    simp
  · have hrun := runResolve_absent (s := s.freed seg rest) (by simpa using hn)
    rw [exec_takes hs (isKind_of_eq hk) rfl, State.serveEither_lookup hl hx hrun]
  · rw [exec_takes hs (isKind_of_eq hk) rfl, State.serveEither_lookup hl hx rfl]
    simp [(disclosed_eq _).1 hb]
  · rw [exec_takes hs (isKind_of_eq hk) rfl, State.serveEither_lookup hl hx rfl]
    simp [(disclosed_eq _).2 h hb hh]
  · have hrun := runFind_found (s := s.freed seg rest) (seg := seg) (a := a) hb (by simpa using he) (by simpa using hf)
    rw [exec_takes hs (isKind_of_eq hk) rfl, State.serveBound_new (State.newFrom_freed hn seg rest) hx, hrun,
      State.deliverCached_same]
    simp [State.answeredCached]
  · have hrun := runFind_absent (s := s.freed seg rest) (seg := seg) (a := a) (start := start) (by simpa using hf)
    rw [exec_takes hs (isKind_of_eq hk) rfl, State.serveBound_new (State.newFrom_freed hn seg rest) hx, hrun,
      State.deliverCached_same]
    rfl

/-- Settles O8: whatever the join policy. -/
theorem membersListsTheGroup : Obligations.MembersListsTheGroup := by
  intro seg s f rest g hs hk hl hx
  refine ⟨fun hg => ?_, fun limit p m hg => ?_⟩
  · have hrun : runMembers g (s.freed seg rest) = { state := s.freed seg rest, status := .nogroup } := by
      simp [runMembers, hg]
    rw [exec_takes hs (isKind_of_eq hk) rfl, State.serveEither_lookup hl hx hrun]
  · have hrun : runMembers g (s.freed seg rest) =
        { state := s.freed seg rest, status := .ok, rest := groupCountFields g m.length ++ m.map addrByte } := by
      simp [runMembers, hg]
    rw [exec_takes hs (isKind_of_eq hk) rfl, State.serveEither_lookup hl hx hrun]
    rfl

end Sys2Proof.Machine
end

section
/-! PROOFS. RENEW, RELEASE, JOIN and LEAVE of a BOUND address (R83, R88, R146, R147). -/

namespace Sys2Proof.Machine

/-- A new request of a Bound kind, by its row (R35, R43). -/
theorem exec_bound {row : Instr} {ok : Byte → Bool} {α : Type} {parse : List Byte → Option α}
    {run : Segment → Addr → α → State → Answer} {seg : Segment} {s : State} {f : Frame} {rest : List Frame} {a : Addr} {x : α}
    (hs : s.serves seg f rest) (hk : ok f.kind = true) (hn : s.newFrom f a) (hx : parse f.body = some x)
    (hrow : exec row s = .next (s.takeFrame ok seg (State.serveBound parse run seg))) :
    exec row s = .next ((s.freed seg rest).deliverCached seg f a (run seg a x (s.freed seg rest))) := by
  rw [exec_takes hs hk hrow, State.serveBound_new (State.newFrom_freed hn seg rest) hx]

/-! ### RENEW -/

/-- Settles O9: a renewal rewrites the record of the requester, with the lease granted to it. -/
theorem renewGrantsALease : Obligations.RenewGrantsALease := by
  intro seg s f rest a n h v p hs hk hn hx
  have hexec := exec_bound (row := .renew seg) hs (isKind_of_eq hk) hn hx rfl
  refine ⟨fun g r hb => ?_, fun hb => ?_⟩
  · have hrun : runRenew seg a n (s.freed seg rest) =
        { state := (s.freed seg rest).setBinding a (.bound (h.on seg) (Lease.grant (renewLength s.policy n)) v p),
          status := .ok, rest := le16 (renewLength s.policy n), granted := [a] } := by
      simp [runRenew, hb]
    rw [hrun] at hexec
    exact ⟨_, hexec, State.deliverCached_rewrites⟩
  · have hrun : runRenew seg a n (s.freed seg rest) =
        { state := (s.freed seg rest).setBinding a (.bound (h.on seg) .permanent v p), status := .ok, rest := le16 0 } := by
      simp [runRenew, hb]
    rw [hrun] at hexec
    exact ⟨_, hexec, State.deliverCached_rewrites⟩

/-! ### RELEASE -/

/-- Nothing is cached in a record that is not bound (R43, R44). -/
theorem State.cacheReply_unbound {s : State} {a : Addr} (h : (s.binding a).isBound = false) (r : Replay) :
    s.cacheReply a r = s := by
  unfold State.cacheReply
  split
  · rename_i hb; rw [hb] at h; cases h
  · rename_i hb; rw [hb] at h; cases h
  all_goals rfl

theorem State.giveUp_unbound (h : Holder) (l : Lease) (v n : Bool) (a : Addr) (s : State) :
    ((s.giveUp h l v n a).binding a).isBound = false := by
  unfold State.giveUp State.goHeldWith
  (repeat' split) <;> simp [State.enterHold, Binding.isBound]

/-- Settles O11: the binding is given up, its listings go with it, and no reply is cached in what is left of it. -/
theorem releaseGivesTheBindingUp : Obligations.ReleaseGivesTheBindingUp := by
  intro seg s f rest a h l v p hs hk hn hbody hb
  have hexec := exec_bound (row := .release seg) (x := ()) hs (isKind_of_eq hk) hn (by rw [hbody]; rfl) rfl
  have hrun : runRelease seg a () (s.freed seg rest) =
      { state := (s.freed seg rest).giveUp (h.on seg) l v false a, status := .ok } := by simp [runRelease, hb]
  rw [hrun] at hexec
  refine ⟨_, hexec, givesUp.of_freed (seg := seg) (rest := rest) ?_⟩
  have hunbound := State.giveUp_unbound (h.on seg) l v false a (s.freed seg rest)
  have hmoved := (movedTo_entries (s.freed seg rest) a).2.2.2.2.2.1 (h.on seg) l v false
  have hcommit := hmoved.commit_unbound [] (by simp [hb, Binding.isBound]) hunbound
  have ht : (s.freed seg rest).deliverCached seg f a
        { state := (s.freed seg rest).giveUp (h.on seg) l v false a, status := .ok }
      = (commit (s.freed seg rest) [] ((s.freed seg rest).giveUp (h.on seg) l v false a)).handReply seg (replyTo f .ok []) := by
    rw [State.deliverCached, State.cacheReply_unbound (by simpa using hunbound)]
  rw [ht]
  change givesUp _ _ _ a (h.on seg) l v
  refine givesUp_of (n := false) nofun (fun b hbind => ?_) ?_ ?_ ?_ ?_ ?_
  · rw [hbind] at hcommit
    rw [State.answered, ← State.withoutListingsOf_freed]
    exact hcommit.handReply seg _
  all_goals simp

/-! ### JOIN and LEAVE -/

theorem groupRequest_bound {s : State} {a : Addr} {h : Holder} {l : Lease} {v : Bool} {p : Option Replay}
    (hb : s.binding a = .bound h l v p) (act : Addr → GroupNo → State → Answer) (seg : Segment) (g : GroupNo) :
    groupRequest act seg a g s = act a g (s.setBinding a (.bound (h.on seg) l v p)) := by
  simp [groupRequest, hb]

section
variable {s : State} {a : Addr} {g : GroupNo}

/-- The cases of R146. -/
theorem joinGroup_unused (hg : s.group g = .unused) : joinGroup a g s = { state := s, status := .nogroup } := by
  simp [joinGroup, hg]

theorem joinGroup_hostonly {limit : Nat} {m : List Addr} (hg : s.group g = .opened limit .hostonly m) :
    joinGroup a g s = { state := s, status := .hostonly } := by
  simp [joinGroup, hg]

theorem joinGroup_member {limit : Nat} {m : List Addr} (hg : s.group g = .opened limit .stations m) (ha : a ∈ m) :
    joinGroup a g s = { state := s, status := .ok, rest := groupCountFields g m.length } := by
  simp [joinGroup, hg, ha]

theorem joinGroup_full {limit : Nat} {m : List Addr} (hg : s.group g = .opened limit .stations m) (ha : a ∉ m)
    (hl : limit ≤ m.length) : joinGroup a g s = { state := s, status := .groupfull } := by
  simp [joinGroup, hg, ha, hl]

theorem joinGroup_poolfull {limit : Nat} {m : List Addr} (hg : s.group g = .opened limit .stations m) (ha : a ∉ m)
    (hl : m.length < limit) (hp : s.poolFree = 0) : joinGroup a g s = { state := s, status := .poolfull } := by
  simp [joinGroup, hg, ha, Nat.not_le.mpr hl, hp]

theorem joinGroup_appends {limit : Nat} {m : List Addr} (hg : s.group g = .opened limit .stations m) (ha : a ∉ m)
    (hl : m.length < limit) (hp : s.poolFree ≠ 0) :
    joinGroup a g s = { state := s.appendMember g limit .stations m a, status := .ok,
                        rest := groupCountFields g (m.length + 1) } := by
  simp [joinGroup, hg, ha, Nat.not_le.mpr hl, hp]

/-- The cases of R147. -/
theorem leaveGroup_unused (hg : s.group g = .unused) : leaveGroup a g s = { state := s, status := .nogroup } := by
  simp [leaveGroup, hg]

theorem leaveGroup_hostonly {limit : Nat} {m : List Addr} (hg : s.group g = .opened limit .hostonly m) :
    leaveGroup a g s = { state := s, status := .hostonly } := by
  simp [leaveGroup, hg]

theorem leaveGroup_absent {limit : Nat} {m : List Addr} (hg : s.group g = .opened limit .stations m) (ha : a ∉ m) :
    leaveGroup a g s = { state := s, status := .notmember } := by
  simp [leaveGroup, hg, ha]

theorem leaveGroup_removes {limit : Nat} {m : List Addr} (hg : s.group g = .opened limit .stations m) (ha : a ∈ m) :
    leaveGroup a g s = { state := s.removeMember g limit .stations m a, status := .ok,
                         rest := groupCountFields g (dropAddr a m).length } := by
  simp [leaveGroup, hg, ha]

end

/-- A JOIN or LEAVE of a BOUND address goes to its cases with the segment written. -/
theorem exec_groupRequest {seg : Segment} {s : State} {f : Frame} {rest : List Frame} {a : Addr} {g : GroupNo} {h : Holder}
    {l : Lease} {v : Bool} {p : Option Replay} (hs : s.serves seg f rest) (hn : s.newFrom f a)
    (hx : groupBody? f.body = some g) (hb : s.binding a = .bound h l v p) :
    (f.kind = kindJoin → exec (.join seg) s = .next ((s.freed seg rest).deliverCached seg f a
        (joinGroup a g ((s.freed seg rest).setBinding a (.bound (h.on seg) l v p)))))
      ∧ (f.kind = kindLeave → exec (.leave seg) s = .next ((s.freed seg rest).deliverCached seg f a
        (leaveGroup a g ((s.freed seg rest).setBinding a (.bound (h.on seg) l v p))))) := by
  have hbound := groupRequest_bound (s := s.freed seg rest) (by simpa using hb)
  refine ⟨fun hk => ?_, fun hk => ?_⟩
  · rw [exec_bound (row := .join seg) hs (isKind_of_eq hk) hn hx rfl, hbound]
  · rw [exec_bound (row := .leave seg) hs (isKind_of_eq hk) hn hx rfl, hbound]

/-- An executed request that rewrote the record of its source and edited one roster, as its reply leaves it. -/
theorem moves_roster {s x : State} {seg : Segment} {f : Frame} {rest : List Frame} {a : Addr} {h : Holder} {l : Lease}
    {v : Bool} {p : Option Replay} {status : Status} {body : List Byte} {groups : Vector GroupRecord 16} {n : Nat}
    (hx : x = { (s.freed seg rest).setBinding a (.bound h l v p) with groups := groups, poolFree := n }) :
    moves s (s.answered seg f rest status body)
      ((s.freed seg rest).deliverCached seg f a { state := x, status := status, rest := body }) a
      (.bound h l v (f.pair status body)) [] := by
  have hbinding : ∀ b, x.binding b = if b = a then .bound h l v p else s.binding b := by
    intro b
    have : x.binding b = ((s.freed seg rest).setBinding a (.bound h l v p)).binding b := by rw [hx]; rfl
    rw [this, State.binding_setBinding]
    simp
  have hmoved : movedTo (s.freed seg rest) (s.freed seg rest) x a (.bound h l v p) := by
    refine ⟨by rw [hx]; rfl, by simp [hbinding], fun b hb => by simp [hbinding, hb], rfl, rfl⟩
  exact (((hmoved.commit_kept [] (fun _ => rfl)).cacheReply ⟨f.sequence, replyKind f.kind, status, body⟩).handReply seg
    (replyTo f status body)).of_freed

/-- Settles O12: each case of R146 and R147 rewrites the record of the requester, and two of them edit the roster. -/
theorem joinAndLeaveKeepTheRoster : Obligations.JoinAndLeaveKeepTheRoster := by
  intro seg s f rest a g h l v p hs hn hx hb
  obtain ⟨hjoin, hleave⟩ := exec_groupRequest hs hn hx hb
  have hgroup : ∀ {r}, s.group g = r →
      ((s.freed seg rest).setBinding a (.bound (h.on seg) l v p)).group g = r := by simp
  have hpool : ((s.freed seg rest).setBinding a (.bound (h.on seg) l v p)).poolFree = s.poolFree := by simp
  refine ⟨fun hk => ⟨fun hg => ?_, fun limit m hg => ?_⟩,
    fun limit m hk hg => ⟨fun ha => ?_, fun ha hl => ?_, fun ha hl hp => ?_, fun ha hl hp => ?_⟩,
    fun limit m hk hg => ⟨fun ha => ?_, fun ha => ?_⟩⟩
  · rcases hk with hk | hk <;> rw [hk]
    · have hexec := hjoin hk
      rw [joinGroup_unused (hgroup hg)] at hexec
      exact ⟨_, hexec, State.deliverCached_rewrites⟩
    · have hexec := hleave hk
      rw [leaveGroup_unused (hgroup hg)] at hexec
      exact ⟨_, hexec, State.deliverCached_rewrites⟩
  · rcases hk with hk | hk <;> rw [hk]
    · have hexec := hjoin hk
      rw [joinGroup_hostonly (hgroup hg)] at hexec
      exact ⟨_, hexec, State.deliverCached_rewrites⟩
    · have hexec := hleave hk
      rw [leaveGroup_hostonly (hgroup hg)] at hexec
      exact ⟨_, hexec, State.deliverCached_rewrites⟩
  · have hexec := hjoin hk
    rw [joinGroup_member (hgroup hg) ha] at hexec
    exact ⟨_, hexec, State.deliverCached_rewrites⟩
  · have hexec := hjoin hk
    rw [joinGroup_full (hgroup hg) ha hl] at hexec
    exact ⟨_, hexec, State.deliverCached_rewrites⟩
  · have hexec := hjoin hk
    rw [joinGroup_poolfull (hgroup hg) ha hl (hpool.trans hp)] at hexec
    exact ⟨_, hexec, State.deliverCached_rewrites⟩
  · have hexec := hjoin hk
    rw [joinGroup_appends (hgroup hg) ha hl (by rw [hpool]; exact hp)] at hexec
    refine ⟨_, hexec, moves_roster rfl, ?_, ?_, ?_, fun k hkg => ?_, ?_⟩ <;>
      simp [State.deliverCached, State.group_member, State.group_member_ne, *]
  · have hexec := hleave hk
    rw [leaveGroup_absent (hgroup hg) ha] at hexec
    exact ⟨_, hexec, State.deliverCached_rewrites⟩
  · have hexec := hleave hk
    rw [leaveGroup_removes (hgroup hg) ha] at hexec
    refine ⟨_, hexec, moves_roster rfl, ?_, ?_, ?_, fun k hkg => ?_, ?_⟩ <;>
      simp [State.deliverCached, State.group_member, State.group_member_ne, *]

end Sys2Proof.Machine
end

section
/-! PROOFS. LIST, LIST-ACK and the frames of a listing (section 6.2). -/

namespace Sys2Proof.Machine

/-! ### The frames -/

/-- The flags of a LISTING frame are the sum of the bits set (R197). -/
theorem BuiltFrame.flagsByte_eq (f : BuiltFrame) :
    f.flagsByte = BitVec.ofNat 8
      ((if f.endFlag then 1 else 0) + (if f.moved then 2 else 0) + (if f.empty then 4 else 0)) := by
  unfold BuiltFrame.flagsByte
  cases f.endFlag <;> cases f.moved <;> cases f.empty <;> decide

theorem Listing.frame_eq (l : Listing) :
    l.frame = ⟨addrByte l.requester, 0xFE, 0xB3, 0#4 ++ l.sequence,
      [BitVec.ofNat 8 l.built.index, l.built.flagsByte] ++ le16 l.built.generation.toNat
        ++ l.built.entries.flatMap (fun e => [addrByte e.address, e.state.code, e.cls] ++ identityBytes e.identity)⟩ := by
  have hentry : ListingEntry.bytes = fun e => [addrByte e.address, e.state.code, e.cls] ++ identityBytes e.identity := rfl
  simp only [Listing.frame, BuiltFrame.body, hentry, directoryAddress, kindListing, List.cons_append, List.nil_append]

/-- The frame built depends on the table only through what LIST finds in it (R132). -/
theorem State.buildFrame_of_entries {s t : State}
    (hb : ∀ filter a, listingEntry? filter a (s.binding a) = listingEntry? filter a (t.binding a))
    (hg : s.generation = t.generation) (f : Byte) (n i : Nat) (g : BitVec 32) :
    s.buildFrame f n i g = t.buildFrame f n i g := by
  have hfound : ∀ x y, s.matchesFrom x y = t.matchesFrom x y := by intro x y; simp [State.matchesFrom, hb]
  unfold State.buildFrame
  rw [hfound, hg]

/-- An element of a list in ascending order is among the first `n`, or behind all of them (R132). -/
theorem mem_take_or_behind {α : Type} {r : α → α → Prop} {l : List α} (hp : l.Pairwise r) (n : Nat) {x : α} (hx : x ∈ l) :
    x ∈ l.take n ∨ (n < l.length ∧ ∀ y ∈ l.take n, r y x) := by
  rw [← List.take_append_drop n l] at hx hp
  rcases List.mem_append.mp hx with h | h
  · exact .inl h
  · refine .inr ⟨?_, fun y hy => (List.pairwise_append.mp hp).2.2 y hy x h⟩
    refine Classical.byContradiction (fun hlen => ?_)
    rw [List.drop_eq_nil_of_le (Nat.not_lt.mp hlen)] at h
    cases h

/-- Settles O14: a frame takes the first four of what is found in ascending order, and is the last when that is all. -/
theorem listingFramesHoldTheNextMatches : Obligations.ListingFramesHoldTheNextMatches := by
  intro s filter next index start
  have hmem := s.mem_matchesFrom filter next
  have hsorted := s.pairwise_matchesFrom filter next
  have hfound : ∀ a e, next ≤ a.val + 1 → listingEntry? filter a (s.binding a) = some e →
      e ∈ s.matchesFrom filter next ∧ e.address = a := by
    intro a e ha he
    obtain rfl := listingEntry_address he
    exact ⟨(hmem e).mpr ⟨ha, he⟩, rfl⟩
  refine ⟨rfl, s.entries_buildFrame _ _ _ _, rfl, rfl, hsorted.sublist (List.take_sublist _ _),
    fun e he => (hmem e).mp (List.mem_of_mem_take he), fun a e ha he => ?_, ⟨fun hend a e ha he => ?_, fun hall => ?_⟩, rfl⟩
  · obtain ⟨hin, rfl⟩ := hfound a e ha he
    rcases mem_take_or_behind hsorted Config.listingEntries hin with h | ⟨hlen, hbehind⟩
    · exact .inl h
    · refine .inr ⟨decide_eq_false (Nat.not_le.mpr hlen), ?_, hbehind⟩
      show ((s.matchesFrom filter next).take Config.listingEntries).length = 4
      rw [List.length_take, Nat.min_eq_left (Nat.le_of_lt hlen)]
      rfl
  · have hlast := of_decide_eq_true hend
    show e ∈ (s.matchesFrom filter next).take Config.listingEntries
    rw [List.take_of_length_le hlast]
    exact (hfound a e ha he).1
  · have hsub : ∀ e ∈ s.matchesFrom filter next, e ∈ (s.matchesFrom filter next).take Config.listingEntries :=
      fun e he => hall e.address e ((hmem e).mp he).1 ((hmem e).mp he).2
    have hnodup : (s.matchesFrom filter next).Nodup :=
      hsorted.imp (fun h heq => by rw [heq] at h; exact absurd h (Fin.lt_irrefl _))
    have hlen := hnodup.length_le_of_subset hsub
    exact decide_eq_true (Nat.le_trans hlen (List.length_take_le _ _))

/-! ### LIST -/

theorem LineState.isDisabled_eq_false {l : LineState} (h : l ≠ .disabled) : l.isDisabled = false := by
  rw [← Bool.not_eq_true, LineState.isDisabled_iff]; exact h

/-- A listing whose first send finds a place (R52, R133). -/
theorem State.send_joins {s : State} {seg : Segment} {l : Listing} (hd : (s.line seg).line ≠ .disabled)
    (hq : (s.line seg).queue.length < 4) (ht : l.timer = none) :
    (s.setListing seg (some l)).sendListing seg =
      (s.setListing seg (some l)).setLine seg ((s.line seg).joinQueue ⟨.listing true, l.frame⟩) := by
  rw [State.sendListing_joins (l := l) (by simp) (by simpa using LineState.isDisabled_eq_false hd)
    (by simpa [Config.transmitPlaces] using hq), State.setListing_setListing]
  obtain ⟨_, _, _, _, _, _, _, _⟩ := l
  subst ht
  simp

/-- A listing whose send is dropped (R52, R133). -/
theorem State.send_dropped {s : State} {seg : Segment} {l : Listing}
    (hd : (s.line seg).line = .disabled ∨ 4 ≤ (s.line seg).queue.length) :
    (s.setListing seg (some l)).sendListing seg = s.setListing seg (some { l with timer := some 250 }) := by
  rw [State.sendListing_dropped (l := l) (by simp) (by simpa [LineState.isDisabled_iff, Config.transmitPlaces] using hd),
    State.setListing_setListing]
  rfl

theorem exec_list {seg : Segment} {s : State} {f : Frame} {rest : List Frame} {a : Addr} {filter : Byte} {start : Addr}
    (hs : s.serves seg f rest) (hk : f.kind = kindList) (hn : s.newFrom f a) (hx : searchBody? f.body = some (filter, start))
    {h : Holder} {l : Lease} {v : Bool} {p : Option Replay} (hb : s.binding a = .bound h l v p) :
    (∀ k, s.listing seg = some k → exec (.list seg) s = .next (s.answeredCached seg f rest a .busy []))
      ∧ (s.listing seg = none → exec (.list seg) s = .next
          ((s.answeredCached seg f rest a .ok (le32 s.generation)).startListing seg a f.sequence filter (start.val + 1))) := by
  have hserve : exec (.list seg) s = .next (State.serveList seg f (s.freed seg rest)) := exec_takes hs (isKind_of_eq hk) rfl
  have hnew := State.newFrom_freed hn seg rest
  rw [hserve]
  simp only [State.serveList, hnew.1, State.serveAddressed_new hnew.2.1 hnew.2.2, hx]
  refine ⟨fun k hl => ?_, fun hl => ?_⟩
  · have hrun : runList seg a (filter, start) (s.freed seg rest) = { state := s.freed seg rest, status := .busy } := by
      simp [runList, hb, hl]
    rw [hrun, State.deliverCached_same]
    rfl
  · have hrun : runList seg a (filter, start) (s.freed seg rest) =
        { state := s.freed seg rest, status := .ok, rest := le32 s.generation } := by simp [runList, hb, hl]
    rw [hrun, State.deliverCached_same]
    rfl

/-- Caching and handing over a reply leave what LIST finds as it is. -/
theorem State.buildFrame_answeredCached (seg : Segment) (f : Frame) (rest : List Frame) (a : Addr) (status : Status)
    (body : List Byte) (s : State) (filter : Byte) (n i : Nat) (g : BitVec 32) :
    (s.answeredCached seg f rest a status body).buildFrame filter n i g = s.buildFrame filter n i g := by
  refine State.buildFrame_of_entries (fun x b => ?_) (by simp [State.answeredCached]) filter n i g
  have hb : (s.answeredCached seg f rest a status body).binding b =
      ((s.freed seg rest).cacheReply a ⟨f.sequence, replyKind f.kind, status, body⟩).binding b := by
    simp [State.answeredCached]
  rw [hb]
  by_cases hba : b = a
  · subst hba
    rw [State.cacheReply_binding]
    cases h : s.binding b <;> simp [h, listingEntry?]
  · simp [hba]

/-- Settles O13: the reply is handed over, and behind it frame 0 of the listing. -/
theorem listStartsAListing : Obligations.ListStartsAListing := by
  refine ⟨fun l => by rw [Listing.frame_eq, BuiltFrame.flagsByte_eq], fun seg s f rest a filter start hs hk hn hx hb => ?_⟩
  obtain ⟨h, l, v, p, hbound⟩ : ∃ h l v p, s.binding a = .bound h l v p := by
    cases hB : s.binding a <;> simp_all [Binding.state]
  obtain ⟨hbusy, hstart⟩ := exec_list hs hk hn hx hbound
  refine ⟨fun hl => ?_, fun hl => ?_⟩
  · obtain ⟨k, hk⟩ := Option.ne_none_iff_exists'.mp hl
    exact hbusy k hk
  · rw [hstart hl]
    simp only [State.startListing, State.buildFrame_answeredCached, nextAfter_buildFrame,
      show (s.answeredCached seg f rest a .ok (le32 s.generation)).generation = s.generation by simp [State.answeredCached]]
    exact ⟨fun hd hq => congrArg _ (State.send_joins hd hq rfl), fun hd => congrArg _ (State.send_dropped hd)⟩

/-! ### LIST-ACK -/

theorem exec_listAck {seg : Segment} {s : State} {f : Frame} {rest : List Frame} {a : Addr} (hs : s.serves seg f rest)
    (hk : f.kind = kindListAck) (ha : addrOf? f.source = some a) (hb : (s.binding a).isBound = true) :
    exec (.listAck seg) s = .next ((s.freed seg rest).acknowledge seg a f.body) := by
  rw [show exec (.listAck seg) s = _ from exec_takes hs (isKind_of_eq hk) rfl, State.serveListAck, ha]
  simp [hb]

theorem State.disownCopies_setListing (seg : Segment) (l : Option Listing) (s : State) :
    (s.setListing seg l).disownCopies seg = (s.disownCopies seg).setListing seg l := by cases seg <;> rfl

theorem State.setListing_setLine (seg : Segment) (l : Option Listing) (c : Controller) (s : State) :
    (s.setLine seg c).setListing seg l = (s.setListing seg l).setLine seg c := by cases seg <;> rfl

theorem State.acknowledge_idle {s : State} {seg : Segment} (h : s.listing seg = none) (a : Addr) (body : List Byte) :
    s.acknowledge seg a body = s := by
  simp [State.acknowledge, h]

/-- An acknowledgement of anything but the frame that waits, or by another station (R134). -/
theorem State.acknowledge_other {s : State} {seg : Segment} {l : Listing} {a : Addr} {body : List Byte}
    (hl : s.listing seg = some l) (h : ∀ i, l.requester = a → body = [i] → i.toNat ≠ l.built.index) :
    s.acknowledge seg a body = s := by
  match body with
  | [i] => simp only [State.acknowledge, hl]; rw [if_neg (fun hi => h i hi.1 rfl hi.2)]
  | [] | _ :: _ :: _ => simp [State.acknowledge, hl]

theorem State.acknowledge_own {s : State} {seg : Segment} {l : Listing} {a : Addr} {i : Byte}
    (hl : s.listing seg = some l) (ha : l.requester = a) (hi : i.toNat = l.built.index) :
    s.acknowledge seg a [i] = if l.built.endFlag then s.endListing seg else s.advanceListing seg l := by
  simp [State.acknowledge, hl, ha, hi]

/-- Settles O15: the listing ends, or goes on with its next frame. -/
theorem listAckMovesTheListing : Obligations.ListAckMovesTheListing := by
  intro seg s f rest a hs hk ha hb
  rw [exec_listAck hs hk ha hb]
  refine ⟨fun hl => by rw [State.acknowledge_idle (by simpa using hl)], fun l hl => ⟨fun hother => ?_, fun i hr hbody hi => ?_⟩⟩
  · rw [State.acknowledge_other (l := l) (by simpa using hl) hother]
  intro copies c built next k
  have hcopies : (s.freed seg rest).disownCopies seg = s.setLine seg c := by
    simp only [State.disownCopies, State.freed, State.setLine_setLine, State.line_setLine_self]
    rfl
  have hbuilt : (s.freed seg rest).buildFrame l.filter l.next (l.built.index + 1) l.startGeneration = built :=
    State.buildFrame_congr (by simp) (by simp) _ _ _ _
  have hnext : nextAfter built l.next = next := nextAfter_buildFrame ..
  have hadvance : (s.freed seg rest).advanceListing seg l = ((s.setLine seg c).setListing seg (some k)).sendListing seg := by
    rw [State.advanceListing, hbuilt, hnext, hcopies]
  rw [hbody, State.acknowledge_own (l := l) (by simpa using hl) hr hi]
  refine ⟨fun hend => ?_, fun hend hd hq => ?_, fun hend hd => ?_⟩
  · rw [if_pos hend, State.endListing, State.disownCopies_setListing, hcopies]
  · rw [if_neg (by simp [hend]), hadvance, State.send_joins (by simpa using hd) (by simpa using hq) rfl,
      State.line_setLine_self, ← State.setListing_setLine, State.setLine_setLine]
  · rw [if_neg (by simp [hend]), hadvance, State.send_dropped (by simpa using hd)]

end Sys2Proof.Machine
end

section
/-! PROOFS. ASK (chapter 3). -/

namespace Sys2Proof.Machine

/-! ### Requests that are answered and not cached (R36, R45) -/

/-- A request from 0x00 runs on the state with its slot freed (R32). -/
theorem exec_unaddressed {row : Instr} {ok : Byte → Bool} {α : Type} {parse : List Byte → Option α}
    {run : Segment → α → State → Answer} {seg : Segment} {s : State} {f : Frame} {rest : List Frame} {x : α}
    (hs : s.serves seg f rest) (hk : ok f.kind = true) (h0 : f.source = 0) (hx : parse f.body = some x)
    (hrow : exec row s = .next (s.takeFrame ok seg (State.serveUnaddressed parse run seg))) :
    exec row s = .next ((s.freed seg rest).deliver seg f (run seg x (s.freed seg rest))) := by
  rw [exec_takes hs hk hrow, State.serveUnaddressed, if_pos h0, hx]

/-- A record rewritten by a request that is not cached, seen from the state before its slot was freed (R36). -/
theorem State.deliver_rewrites {s : State} {seg : Segment} {f : Frame} {rest : List Frame} {a : Addr} {b : Binding}
    (hk : (s.binding a).isBound = true → b.isBound = true) (status : Status) (body : List Byte) (g : List Addr) :
    rewrites s (s.answered seg f rest status body)
      ((s.freed seg rest).deliver seg f
        { state := (s.freed seg rest).setBinding a b, status := status, rest := body, granted := g }) a b g := by
  obtain ⟨-, -, -, -, -, -, -, -, -, -, -, -, hmoved⟩ := movedTo_entries (s.freed seg rest) a
  refine ((hmoved b).deliver (f := f) hk status body g).rewrites ?_ ?_ ?_ ?_ ?_ <;> simp [State.deliver]

/-- An answer that changed nothing (R36). -/
theorem State.deliver_unchanged (s : State) (seg : Segment) (f : Frame) (rest : List Frame) (status : Status)
    (body : List Byte) :
    (s.freed seg rest).deliver seg f { state := s.freed seg rest, status := status, rest := body } =
      s.answered seg f rest status body := State.deliver_same ..

/-- An answer whose application touched neither table nor groups (R36). -/
theorem State.deliver_quiet {s y : State} (hb : ∀ a, y.binding a = s.binding a) (hg : ∀ g, y.group g = s.group g)
    (seg : Segment) (f : Frame) (status : Status) (body : List Byte) :
    s.deliver seg f { state := y, status := status, rest := body } = y.handReply seg (replyTo f status body) := by
  simp [State.deliver, commit_quiet hb hg]

/-! ### The row -/

variable {seg : Segment} {s : State} {f : Frame} {rest : List Frame} {x : Identity} {c : Byte} {tag : Tag}

theorem exec_ask (hs : s.serves seg f rest) (hk : f.kind = kindAsk) (h0 : f.source = 0)
    (hx : askBody? f.body = some (x, c, tag)) :
    exec (.ask seg) s = .next ((s.freed seg rest).deliver seg f (runAsk seg (x, c, tag) (s.freed seg rest))) :=
  exec_unaddressed hs (isKind_of_eq hk) h0 hx rfl

/-- Outside RECALL an identity that is not barred is answered by its standing (R54, R56). -/
theorem exec_ask_running (hs : s.serves seg f rest) (hk : f.kind = kindAsk) (h0 : f.source = 0)
    (hx : askBody? f.body = some (x, c, tag)) (hp : s.phase = .running) (hb : x ∉ s.barred) :
    exec (.ask seg) s =
      .next ((s.freed seg rest).deliver seg f (decideAsk ⟨x, c, tag, seg⟩ (s.freed seg rest))) := by
  rw [exec_ask hs hk h0 hx, runAsk_running (by simpa using hp) (by simpa using hb)]

/-- An identity that stands nowhere goes on to the admission mode (R55). -/
theorem exec_ask_nowhere (hs : s.serves seg f rest) (hk : f.kind = kindAsk) (h0 : f.source = 0)
    (hx : askBody? f.body = some (x, c, tag)) (hp : s.phase = .running) (hb : x ∉ s.barred)
    (hn : ∀ a, x ∉ (s.binding a).parties) :
    exec (.ask seg) s =
      .next ((s.freed seg rest).deliver seg f (continueAsk ⟨x, c, tag, seg⟩ (s.freed seg rest))) := by
  have hnowhere : ∀ a, x ∉ ((s.freed seg rest).binding a).parties := by simpa using hn
  rw [exec_ask_running hs hk h0 hx hp hb, decideAsk_nowhere hnowhere]

/-- The admission modes (R62, R63). -/
theorem continueAsk_nowhere {h : Holder} (hn : ∀ a, h.identity ∉ (s.binding a).parties) :
    (s.policy.mode = .closed →
        continueAsk h s = { state := s, status := .refused, rest := identityBytes h.identity })
      ∧ (s.policy.mode = .supervised → continueAsk h s = superviseAsk h s)
      ∧ (s.policy.mode = .open_ → continueAsk h s = openAsk h s) := by
  refine ⟨fun hm => ?_, fun hm => ?_, fun hm => ?_⟩ <;> simp [continueAsk, State.ownAddr_nowhere hn, hm]

/-- The same on the state whose slot is freed. -/
theorem continueAsk_freed {h : Holder} (hn : ∀ a, h.identity ∉ (s.binding a).parties) (seg : Segment) (rest : List Frame) :
    (s.policy.mode = .closed → continueAsk h (s.freed seg rest) =
        { state := s.freed seg rest, status := .refused, rest := identityBytes h.identity })
      ∧ (s.policy.mode = .supervised → continueAsk h (s.freed seg rest) = superviseAsk h (s.freed seg rest))
      ∧ (s.policy.mode = .open_ → continueAsk h (s.freed seg rest) = openAsk h (s.freed seg rest)) := by
  have hfreed := continueAsk_nowhere (s := s.freed seg rest) (h := h) (by simpa using hn)
  rwa [show (s.freed seg rest).policy = s.policy by simp] at hfreed

theorem State.atOfferLimit_freed (s : State) (seg : Segment) (rest : List Frame) :
    (s.freed seg rest).atOfferLimit = s.atOfferLimit := by simp [State.atOfferLimit]

theorem State.offerLease_freed (s : State) (seg : Segment) (rest : List Frame) (o : Origin) :
    (s.freed seg rest).offerLease o = s.offerLease o := by
  cases o <;> simp [State.offerLease, State.freshLease]

/-- Settles O16: by where the identity stands. -/
theorem asksThatMakeNoOffer : Obligations.AsksThatMakeNoOffer := by
  refine ⟨fun seg s f rest x c tag hs hk h0 hx => ⟨fun r hr => ?_, fun hp hb => ?_, fun hp hb hn hm => ?_,
      fun hp hb hn hm hlim => ?_, fun a hp hb hst ha hstate hlim => ?_⟩,
    fun seg s f rest x c tag a h hs hk h0 hx hp hb hst hh => ⟨fun l v p hbind => ?_, fun o r hbind => ?_⟩⟩
  · have hrun : runAsk seg (x, c, tag) (s.freed seg rest) = waitAnswer x r.remaining (s.freed seg rest) := by
      simp [runAsk, hr]
    rw [exec_ask hs hk h0 hx, hrun, waitAnswer, State.deliver_unchanged]
  · have hrun : runAsk seg (x, c, tag) (s.freed seg rest) =
        { state := s.freed seg rest, status := .barred, rest := identityBytes x } := by
      simp [runAsk, hp, State.isBarred, hb]
    rw [exec_ask hs hk h0 hx, hrun, State.deliver_unchanged]
  · rw [exec_ask_nowhere hs hk h0 hx hp hb hn, (continueAsk_freed (h := ⟨x, c, tag, seg⟩) hn seg rest).1 hm,
      State.deliver_unchanged]
  · have hfull : (s.freed seg rest).atOfferLimit = true := by
      rw [State.atOfferLimit_freed]; exact decide_eq_true hlim
    rw [exec_ask_nowhere hs hk h0 hx hp hb hn, (continueAsk_freed (h := ⟨x, c, tag, seg⟩) hn seg rest).2.2 hm]
    simp only [openAsk, hfull, if_true, waitAnswer, State.deliver_unchanged]
    rfl
  · have hfull : (s.freed seg rest).atOfferLimit = true := by
      rw [State.atOfferLimit_freed]; exact decide_eq_true hlim
    have honce := State.once_freed hst seg rest
    have hparty : x ∈ ((s.freed seg rest).binding a).parties := by simpa using ha
    have hheld : ((s.freed seg rest).binding a).state = .reserved ∨ ((s.freed seg rest).binding a).state = .held := by
      simpa using hstate
    obtain ⟨o, hown⟩ := State.ownAddr_at honce hparty hheld
    rw [exec_ask_running hs hk h0 hx hp hb, decideAsk_own (h := ⟨x, c, tag, seg⟩) honce hparty hheld, continueAsk, hown]
    simp only [hfull, if_true, waitAnswer, State.deliver_unchanged]
    rfl
  · subst hh
    have hown : (s.freed seg rest).binding a = .bound h l v p := by simpa using hbind
    refine ⟨_, ?_, State.deliver_rewrites (fun _ => rfl) _ _ _⟩
    rw [exec_ask_running hs hk h0 hx hp hb, decideAsk_bound (h := ⟨h.identity, c, tag, seg⟩) (State.once_freed hst seg rest) hown rfl]
    simp only [List.append_assoc, List.cons_append, List.nil_append]
    rfl
  · subst hh
    have hown : (s.freed seg rest).binding a = .offered h o r := by simpa using hbind
    refine ⟨_, ?_, State.deliver_rewrites (by simp [hbind, Binding.isBound]) _ _ _⟩
    rw [exec_ask_running hs hk h0 hx hp hb, decideAsk_offered (h := ⟨h.identity, c, tag, seg⟩) (State.once_freed hst seg rest) hown rfl,
      offerFields, State.offerLease_freed, State.offerLease_field]
    simp only [List.append_assoc, List.cons_append, List.nil_append]
    rfl

/-! ### Offers -/

/-- The own address of the identity is offered to it (R61, R64). -/
theorem offers_own {a : Addr} {o : Origin} (hs : s.serves seg f rest) (hk : f.kind = kindAsk) (h0 : f.source = 0)
    (hx : askBody? f.body = some (x, c, tag)) (hp : s.phase = .running) (hb : x ∉ s.barred) (hst : s.IdentitiesStandOnce)
    (hlim : s.offeredCount < s.policy.offerLimit) (ha : x ∈ (s.binding a).parties)
    (hstate : (s.binding a).state = .reserved ∨ (s.binding a).state = .held) (hown : s.ownAddr x = some (a, o)) :
    ∃ t, exec (.ask seg) s = .next t
      ∧ offers s (s.answered seg f rest .ok (offerFields x a (s.offerLease o) s.policy.offerWindow)) t a ⟨x, c, tag, seg⟩ o
      ∧ membershipsKept s t := by
  have hroom : (s.freed seg rest).atOfferLimit = false := by
    rw [State.atOfferLimit_freed]; exact decide_eq_false (Nat.not_le.mpr hlim)
  have hfreed : (s.freed seg rest).ownAddr x = some (a, o) := by
    rw [← hown]; simp [State.ownAddr]
  have hunbound : (s.binding a).isBound = false := by
    cases hB : s.binding a <;> simp_all [Binding.state, Binding.isBound]
  have hlease : ((s.freed seg rest).makeOffer ⟨x, c, tag, seg⟩ o a).offerLease o = s.offerLease o := by
    cases o <;> simp [State.offerLease, State.freshLease]
  have hexec : exec (.ask seg) s = .next ((s.freed seg rest).deliver seg f
      { state := (s.freed seg rest).makeOffer ⟨x, c, tag, seg⟩ o a, status := .ok,
        rest := offerFields x a (s.offerLease o) s.policy.offerWindow }) := by
    rw [exec_ask_running hs hk h0 hx hp hb,
      decideAsk_own (h := ⟨x, c, tag, seg⟩) (State.once_freed hst seg rest) (by simpa using ha) (by simpa using hstate),
      continueAsk, hfreed]
    simp [hroom, offerMade, hlease]
  refine ⟨_, hexec, offers_of ((movedTo_offers (s.freed seg rest) a ⟨x, c, tag, seg⟩).1 o) hunbound ?_ ?_ _, ?_⟩
  · simp [State.makeOffer]
  · simp [State.makeOffer]
  · simp [membershipsKept, State.deliver]

/-- Settles O17: the reservation or the hold of the identity is offered to it. -/
theorem askOffersTheOwnAddress : Obligations.AskOffersTheOwnAddress := by
  intro seg s f rest x c tag a hs hk h0 hx hp hb hst hlim
  refine ⟨fun r hbind hr => ?_, fun h k hbind hh => ?_⟩
  · have hoffer := offers_own hs hk h0 hx hp hb hst hlim (a := a) (by simp [hbind, Binding.parties, hr])
      (.inl (by simp [hbind, Binding.state])) (State.ownAddr_reserved hst hbind hr)
    have hfields : offerFields x a (s.offerLease (.reserved r.kind)) s.policy.offerWindow =
        identityBytes x ++ [addrByte a] ++ le16 (if r.kind = .permanent then 0 else s.policy.defaultLease)
          ++ [BitVec.ofNat 8 s.policy.offerWindow] := by
      rw [offerFields, State.offerLease_field]
      cases r.kind <;> simp
    rw [hfields] at hoffer
    exact hoffer
  · have hoffer := offers_own hs hk h0 hx hp hb hst hlim (a := a) (by simp [hbind, Binding.parties, hh])
      (.inr (by simp [hbind, Binding.state])) (State.ownAddr_held hst hbind hh)
    have hfields : offerFields x a (s.offerLease .held) s.policy.offerWindow =
        identityBytes x ++ [addrByte a] ++ le16 s.policy.defaultLease ++ [BitVec.ofNat 8 s.policy.offerWindow] := by
      rw [offerFields, State.offerLease_field]
      simp
    rw [hfields] at hoffer
    exact hoffer

/-- A newcomer is offered the address R24 chooses (R63). -/
theorem offers_newcomer {a : Addr} (hs : s.serves seg f rest) (hk : f.kind = kindAsk) (h0 : f.source = 0)
    (hx : askBody? f.body = some (x, c, tag)) (hp : s.phase = .running) (hb : x ∉ s.barred)
    (hn : ∀ a, x ∉ (s.binding a).parties) (hm : s.policy.mode = .open_) (hlim : s.offeredCount < s.policy.offerLimit)
    (ha : s.newcomerAddr = some a) (hunbound : (s.binding a).isBound = false) :
    ∃ t, exec (.ask seg) s = .next t
      ∧ offers s (s.answered seg f rest .ok (identityBytes x ++ [addrByte a] ++ le16 s.policy.defaultLease
          ++ [BitVec.ofNat 8 s.policy.offerWindow])) t a ⟨x, c, tag, seg⟩ .free
      ∧ (∀ g, t.group g = ((s.freed seg rest).makeAnonymous a).group g) ∧ t.groups = ((s.freed seg rest).makeAnonymous a).groups
      ∧ t.poolFree = ((s.freed seg rest).makeAnonymous a).poolFree := by
  have hroom : (s.freed seg rest).atOfferLimit = false := by
    rw [State.atOfferLimit_freed]; exact decide_eq_false (Nat.not_le.mpr hlim)
  have hchosen : (s.freed seg rest).newcomerAddr = some a := by
    rw [← ha]; simp [State.newcomerAddr]
  have hfields : offerFields x a (((s.freed seg rest).offerNewcomer ⟨x, c, tag, seg⟩ a).offerLease .free)
      s.policy.offerWindow = identityBytes x ++ [addrByte a] ++ le16 s.policy.defaultLease
        ++ [BitVec.ofNat 8 s.policy.offerWindow] := by
    rw [offerFields, State.offerLease_field]
    simp
  have hexec : exec (.ask seg) s = .next ((s.freed seg rest).deliver seg f
      { state := (s.freed seg rest).offerNewcomer ⟨x, c, tag, seg⟩ a, status := .ok,
        rest := identityBytes x ++ [addrByte a] ++ le16 s.policy.defaultLease ++ [BitVec.ofNat 8 s.policy.offerWindow] }) := by
    rw [exec_ask_nowhere hs hk h0 hx hp hb hn, (continueAsk_freed (h := ⟨x, c, tag, seg⟩) hn seg rest).2.2 hm, ← hfields]
    simp [openAsk, hroom, hchosen, offerMade]
  refine ⟨_, hexec, offers_of (movedTo_offers (s.freed seg rest) a ⟨x, c, tag, seg⟩).2 hunbound ?_ ?_ _, ?_, ?_, ?_⟩
  all_goals simp [State.deliver, State.offerNewcomer, State.makeOffer]

/-- Settles O18: the head of the free queue, else the reclaimed head of the hold queue. -/
theorem askOffersToNewcomers : Obligations.AskOffersToNewcomers := by
  intro seg s f rest x c tag hs hk h0 hx hp hb hn hm hlim
  refine ⟨fun a q hq hbind => ?_, fun a q h k hq hq' hbind => ?_, fun a q k hq hq' hbind => ?_, fun hq hq' => ?_⟩
  · obtain ⟨t, ht, hoffer, -, hgroups, hpool⟩ := offers_newcomer hs hk h0 hx hp hb hn hm hlim (a := a)
      (by simp [State.newcomerAddr, hq]) (by simp [hbind, Binding.isBound])
    rw [State.makeAnonymous_same (by simp [hbind])] at hgroups hpool
    exact ⟨t, ht, hoffer, by simpa using hgroups, by simpa using hpool⟩
  · obtain ⟨t, ht, hoffer, hgroup, -, hpool⟩ := offers_newcomer hs hk h0 hx hp hb hn hm hlim (a := a)
      (by simp [State.newcomerAddr, hq, hq']) (by simp [hbind, Binding.isBound])
    have hanonymous := State.makeAnonymous_of (s := s.freed seg rest) (a := a) (h := h) (r := k) (by simpa using hbind)
    rw [hanonymous] at hgroup hpool
    exact ⟨t, ht, hoffer, fun g => (hgroup g).trans (by simp), hpool.trans (by simp [State.entriesOf])⟩
  · obtain ⟨t, ht, hoffer, -, hgroups, hpool⟩ := offers_newcomer hs hk h0 hx hp hb hn hm hlim (a := a)
      (by simp [State.newcomerAddr, hq, hq']) (by simp [hbind, Binding.isBound])
    rw [State.makeAnonymous_same (by simp [hbind])] at hgroups hpool
    exact ⟨t, ht, hoffer, by simpa using hgroups, by simpa using hpool⟩
  · have hroom : (s.freed seg rest).atOfferLimit = false := by
      rw [State.atOfferLimit_freed]; exact decide_eq_false (Nat.not_le.mpr hlim)
    rw [exec_ask_nowhere hs hk h0 hx hp hb hn, (continueAsk_freed (h := ⟨x, c, tag, seg⟩) hn seg rest).2.2 hm]
    have hnone : (s.freed seg rest).newcomerAddr = none := by simp [State.newcomerAddr, hq, hq']
    simp only [openAsk, hroom, hnone, Bool.false_eq_true, if_false]
    rw [State.deliver_quiet (s := s.freed seg rest) (y := (s.freed seg rest).setFactor .exhausted) (fun _ => rfl)
      (fun _ => rfl)]
    cases seg <;> rfl

/-! ### Supervision -/

theorem superviseAsk_entry {h : Holder} (he : ∃ e ∈ s.admission, e.identity = h.identity) :
    superviseAsk h s = waitAnswer h.identity 2 (s.moveEntry h.identity h.segment) := by
  have hentry : s.hasEntry h.identity = true := by simpa [State.hasEntry] using he
  simp [superviseAsk, hentry]

theorem superviseAsk_joins {h : Holder} (he : ∀ e ∈ s.admission, e.identity ≠ h.identity) (hl : s.admission.length < 8) :
    superviseAsk h s = waitAnswer h.identity 2 ((s.addEntry h).setFactor .admitPending) := by
  have hentry : s.hasEntry h.identity = false := by simpa [State.hasEntry] using he
  simp [superviseAsk, hentry, Config.admissionPlaces, hl]

theorem superviseAsk_full {h : Holder} (he : ∀ e ∈ s.admission, e.identity ≠ h.identity) (hl : 8 ≤ s.admission.length) :
    superviseAsk h s = waitAnswer h.identity 2 s := by
  have hentry : s.hasEntry h.identity = false := by simpa [State.hasEntry] using he
  simp [superviseAsk, hentry, Config.admissionPlaces, Nat.not_lt.mpr hl]

/-- Settles O19: by whether the identity has an entry, and by the room in the queue. -/
theorem askQueuesUnderSupervision : Obligations.AskQueuesUnderSupervision := by
  intro seg s f rest x c tag hs hk h0 hx hp hb hn hm
  have hexec : exec (.ask seg) s =
      .next ((s.freed seg rest).deliver seg f (superviseAsk ⟨x, c, tag, seg⟩ (s.freed seg rest))) := by
    rw [exec_ask_nowhere hs hk h0 hx hp hb hn, (continueAsk_freed (h := ⟨x, c, tag, seg⟩) hn seg rest).2.1 hm]
  refine ⟨fun he hl => ?_, fun he hl => ?_, fun he => ?_⟩
  · rw [hexec, superviseAsk_joins (by simpa using he) (by simpa using hl), waitAnswer, State.deliver_quiet]
    · cases seg <;> rfl
    all_goals exact fun _ => rfl
  · rw [hexec, superviseAsk_full (by simpa using he) (by simpa using hl), waitAnswer, State.deliver_unchanged]
    rfl
  · rw [hexec, superviseAsk_entry (by simpa using he), waitAnswer, State.deliver_quiet]
    · cases seg <;> rfl
    all_goals exact fun _ => rfl

/-! ### The ASK of a party to a contest -/

theorem State.makeAnonymous_members {a b : Addr} {g : GroupNo} (h : a ∉ (s.group g).members) :
    a ∉ ((s.makeAnonymous b).group g).members := by
  unfold State.makeAnonymous
  split
  · simpa [GroupRecord.members_drop, dropAddr] using fun hmem => absurd hmem h
  all_goals exact h

/-- Where an ASK goes on, a bound address that is not queued keeps its record, and no group gains a member (R54). -/
theorem continueAsk_keeps {h : Holder} {a : Addr} (hb : (s.binding a).isBound = true) (hf : a ∉ s.freeQueue)
    (hh : a ∉ s.holdQueue) :
    (continueAsk h s).state.binding a = s.binding a
      ∧ ∀ g, a ∉ (s.group g).members → a ∉ ((continueAsk h s).state.group g).members := by
  unfold continueAsk
  split
  · rename_i b o hown
    have hne : a ≠ b := by
      rintro rfl
      rcases State.ownAddr_some hown with ⟨r, hr, -⟩ | ⟨k, r, hr, -⟩ <;> rw [hr] at hb <;> cases hb
    split
    · exact ⟨rfl, fun g hg => hg⟩
    · simp [offerMade, hne]
  · split
    · exact ⟨rfl, fun g hg => hg⟩
    · unfold superviseAsk
      (repeat' split) <;> exact ⟨rfl, fun g hg => hg⟩
    · unfold openAsk
      split
      · exact ⟨rfl, fun g hg => hg⟩
      · split
        · rename_i b hchosen
          have hne : a ≠ b := by
            rintro rfl
            rcases State.newcomerAddr_some hchosen with hmem | hmem
            · exact hf hmem
            · exact hh hmem
          refine ⟨by simp [offerMade, hne], fun g hg => ?_⟩
          simpa [offerMade, State.offerNewcomer] using State.makeAnonymous_members hg
        · exact ⟨rfl, fun g hg => hg⟩

/-- Settles O20: the settlement is made on a bound address, which the continuation does not reach. -/
theorem askSettlesAContest : Obligations.AskSettlesAContest := by
  intro seg s f rest x c tag a h l v p ch k hs hk h0 hx hp hb hst hq hbind
  have honce := State.once_freed hst seg rest
  have hcontest : (s.freed seg rest).binding a = .contested h l v p ch k := by simpa using hbind
  obtain ⟨hfree, hhold⟩ := State.not_queued hq (a := a) (by rw [hbind]; rfl)
  refine ⟨fun hc => ?_, fun hh => ?_⟩
  · subst hc
    obtain ⟨hkeeps, -⟩ := continueAsk_keeps (h := ⟨ch.identity, c, tag, seg⟩) (a := a)
      (s := (s.freed seg rest).setBinding a (.bound h l v p)) (by simp [Binding.isBound]) (by simpa using hfree)
      (by simpa using hhold)
    refine ⟨_, ?_, rfl, ?_⟩
    · rw [exec_ask_running hs hk h0 hx hp hb, decideAsk_challenger (h := ⟨ch.identity, c, tag, seg⟩) honce hcontest rfl]
    · simpa [State.deliver] using hkeeps
  · subst hh
    have hlease : (s.freed seg rest).freshLease v l.kind = s.keeperLease l v := by
      rw [State.keeperLease_eq]; simp [State.keeperLease]
    obtain ⟨hkeeps, hgroups⟩ := continueAsk_keeps (h := ⟨h.identity, c, tag, seg⟩) (a := a)
      (s := (s.freed seg rest).keepChallenger ch l v a) (by simp [Binding.isBound])
      (by simp [State.keepChallenger, State.enterBound, hfree, dropAddr])
      (by simp [State.keepChallenger, State.enterBound, hhold, dropAddr])
    refine ⟨_, ?_, rfl, ?_, fun g => ?_⟩
    · rw [exec_ask_running hs hk h0 hx hp hb, decideAsk_incumbent (h := ⟨h.identity, c, tag, seg⟩) honce hcontest rfl]
    · have hkept : ((s.freed seg rest).keepChallenger ch l v a).binding a = .bound ch.asHolder (s.keeperLease l v) v none := by
        simp [← hlease]
      rw [hkept] at hkeeps
      simpa [State.deliver, State.keeperLease, Challenger.asHolder] using hkeeps
    · have := hgroups g (by simp [State.keepChallenger, GroupRecord.members_drop, dropAddr])
      simpa [State.deliver] using this

end Sys2Proof.Machine
end

section
/-! PROOFS. TAKE (R67) and CLAIM (section 5.2). -/

namespace Sys2Proof.Machine

section
variable {seg : Segment} {s : State} {f : Frame} {rest : List Frame} {x : Identity} {a : Addr}

/-! ### TAKE -/

theorem exec_take (hs : s.serves seg f rest) (hk : f.kind = kindTake) (h0 : f.source = 0)
    (hx : takeBody? f.body = some (x, a)) :
    exec (.take seg) s = .next ((s.freed seg rest).deliver seg f (runTake seg (x, a) (s.freed seg rest))) :=
  exec_unaddressed hs (isKind_of_eq hk) h0 hx rfl

/-- Where there is nothing to take (R67). -/
theorem runTake_stale (hp : s.phase.isRecall = false) (ho : ∀ h o r, s.binding a = .offered h o r → h.identity ≠ x)
    (hb : ∀ h l v p, s.binding a = .bound h l v p → h.identity ≠ x) : runTake seg (x, a) s = staleAnswer x s := by
  simp only [runTake, hp, Bool.false_eq_true, if_false]
  cases h : s.binding a with
  | offered k o r => simp [ho k o r h]
  | bound k l v p => simp [hb k l v p h]
  | free | reserved _ | held _ _ | contested _ _ _ _ _ _ => rfl

/-- Settles O21: the offer is taken, the answer repeated, or there is nothing to take. -/
theorem takeBindsTheOffer : Obligations.TakeBindsTheOffer := by
  intro seg s f rest x a hs hk h0 hx
  have hexec := exec_take hs hk h0 hx
  refine ⟨fun hp => ?_, fun hp ho hb => ?_, fun h l v p hp hb hh => ?_, fun h o r hp hb hh => ?_⟩
  · have hrun : runTake seg (x, a) (s.freed seg rest) = staleAnswer x (s.freed seg rest) := by simp [runTake, hp]
    rw [hexec, hrun, staleAnswer, State.deliver_unchanged]
  · rw [hexec, runTake_stale (by simp [hp, Phase.isRecall]) (by simpa using ho) (by simpa using hb), staleAnswer,
      State.deliver_unchanged]
  · subst hh
    have hrun : runTake seg (h.identity, a) (s.freed seg rest) =
        { state := (s.freed seg rest).setBinding a (.bound (h.on seg) l v p), status := .ok,
          rest := identityBytes h.identity ++ [addrByte a] ++ le16 l.remainingField } := by
      simp [runTake, hp, Phase.isRecall, hb, takeFields]
    rw [hrun] at hexec
    exact ⟨_, hexec, State.deliver_rewrites (fun _ => rfl) _ _ _⟩
  · subst hh
    intro lease
    have hlease : lease = s.offerLease o := by rcases o with _ | _ | _ | _ <;> rfl
    clear_value lease
    subst hlease
    have hrun : runTake seg (h.identity, a) (s.freed seg rest) =
        { state := (s.freed seg rest).enterBound (h.on seg) (s.offerLease o) o.reservedYes a, status := .ok,
          rest := identityBytes h.identity ++ [addrByte a] ++ le16 (s.offerLease o).grantedField, granted := [a] } := by
      simp [runTake, hp, Phase.isRecall, hb, takeFields, State.offerLease_freed]
    rw [hrun] at hexec
    obtain ⟨-, -, -, -, -, -, -, -, -, hmoved, -⟩ := movedTo_entries (s.freed seg rest) a
    refine ⟨_, hexec, (hmoved (h.on seg) (s.offerLease o) o.reservedYes).deliver (fun _ => rfl) _ _ _, ⟨?_, ?_⟩, ?_, ?_⟩ <;>
      simp [State.deliver, State.enterBound]

/-! ### CLAIM: the row and the case it comes to -/

theorem exec_claim {c : Byte} (hs : s.serves seg f rest) (hk : f.kind = kindClaim) (ha : addrOf? f.source = some a)
    (hx : claimBody? f.body = some (x, c)) :
    exec (.claim seg) s = .next ((s.freed seg rest).deliver seg f (runClaim seg a (x, c) (s.freed seg rest))) := by
  rw [show exec (.claim seg) s = _ from exec_takes hs (isKind_of_eq hk) rfl, State.serveClaimant, ha]
  simp only [hx]

/-- A claimant that stands elsewhere in HELD bindings alone is answered by the address it claims (R106). -/
theorem exec_claim_at {c : Byte} (hs : s.serves seg f rest) (hk : f.kind = kindClaim) (ha : addrOf? f.source = some a)
    (hx : claimBody? f.body = some (x, c)) (hb : x ∉ s.barred)
    (hn : ∀ b, b ≠ a → x ∈ (s.binding b).parties → (s.binding b).state = .held) :
    exec (.claim seg) s = .next ((s.freed seg rest).deliver seg f (claimAt a x c seg (s.freed seg rest))) := by
  rw [exec_claim hs hk ha hx, runClaim_at (by simpa using hb) (by simpa using hn)]

/-! ### What the claimant leaves elsewhere (R108, R116) -/

/-- A claimant that stands nowhere else leaves its admission entry alone. -/
theorem State.settleClaimant_nowhere {y : State} (hy : ∀ b, b ≠ a → y.binding b = s.binding b)
    (hn : ∀ b, b ≠ a → x ∉ (s.binding b).parties) : y.settleClaimant x a = y.removeEntry x := by
  rw [State.settleClaimant, State.forgetElsewhere_none (fun b hb => by rw [hy b hb]; exact hn b hb)]

/-- A hold of the claimant elsewhere is made anonymous. -/
theorem State.settleClaimant_held {y : State} {b : Addr} {h : Holder} {r : Countdown} (hst : s.IdentitiesStandOnce)
    (hy : ∀ c, c ≠ a → y.binding c = s.binding c) (hba : b ≠ a) (hb : s.binding b = .held (some h) r)
    (hx : h.identity = x) :
    y.settleClaimant x a = ((y.setBinding b (.held none r)).dropMember b).removeEntry x := by
  have hyb : y.binding b = .held (some h) r := (hy b hba).trans hb
  have hparty : x ∈ (s.binding b).parties := by simp [hb, Binding.parties, hx]
  have hfind : y.findElsewhere (isHeldBy x) a = some b := by
    refine State.findElsewhere_some hba (by simp [hyb, isHeldBy, hx]) (fun c hca hc => ?_)
    rw [hy c hca] at hc
    exact party_unique hst hparty (isHeldBy_iff.mp hc).1
  rw [State.settleClaimant, State.forgetElsewhere, hfind]
  simp only [State.makeAnonymous_of hyb]

/-- Where one hold of the identity stands, it stands elsewhere in holds alone. -/
theorem State.elsewhere_held {b : Addr} {h : Holder} {r : Countdown} (hst : s.IdentitiesStandOnce)
    (hb : s.binding b = .held (some h) r) (hx : h.identity = x) :
    ∀ c, c ≠ a → x ∈ (s.binding c).parties → (s.binding c).state = .held := by
  intro c _ hc
  rw [party_unique hst (a := b) (by simp [hb, Binding.parties, hx]) hc, hb]
  rfl

end

/-! ### What the application leaves -/

/-- `t` is `u` but for the table, the queues and the memberships, and for what that counts. -/
def applied (s u t : State) (granted : List Addr) : Prop :=
  t = { u with
        table := t.table, freeQueue := t.freeQueue, holdQueue := t.holdQueue, boundary := t.boundary
        groups := t.groups, poolFree := t.poolFree, generation := t.generation, marks := t.marks }
    ∧ counted s t granted

/-- An application that unbound nothing and is answered, seen from the state before the slot was freed (R36). -/
theorem applied_deliver {s y z : State} {seg : Segment} {f : Frame} {rest : List Frame}
    (hz : z = { y with
      table := z.table, freeQueue := z.freeQueue, holdQueue := z.holdQueue, boundary := z.boundary
      groups := z.groups, poolFree := z.poolFree })
    (hgen : y.generation = s.generation) (hmarks : y.marks = s.marks)
    (hk : ∀ c, (s.binding c).isBound = true → (z.binding c).isBound = true) (status : Status) (body : List Byte)
    (g : List Addr) :
    applied s (y.handReply seg (replyTo f status body))
      ((s.freed seg rest).deliver seg f { state := z, status := status, rest := body, granted := g }) g := by
  have hfields : z.phase = y.phase ∧ z.policy = y.policy ∧ z.generation = y.generation ∧ z.marks = y.marks
      ∧ z.admission = y.admission ∧ z.barred = y.barred ∧ z.port = y.port ∧ z.events = y.events ∧ z.enables = y.enables
      ∧ z.lastReset = y.lastReset ∧ z.inReset = y.inReset ∧ z.pending = y.pending := by
    refine ⟨?_, ?_, ?_, ?_, ?_, ?_, ?_, ?_, ?_, ?_, ?_, ?_⟩ <;> (rw [hz])
  have hlines : ∀ k, z.line k = y.line k := State.line_eq (by rw [hz]) (by rw [hz])
  have hlistings : ∀ k, z.listing k = y.listing k := State.listing_eq (by rw [hz]) (by rw [hz])
  obtain ⟨hphase, hpolicy, hzgen, hzmarks, hadmission, hbarred, hport, hevents, henables, hlast, hreset, hpending⟩ := hfields
  have hbound : ∀ c, ((s.freed seg rest).binding c).isBound = true → (z.binding c).isBound = true := by simpa using hk
  obtain ⟨hl, he⟩ := State.handReply_congr seg (replyTo f status body)
    (s := z.recordChanges (changedRecords (s.freed seg rest) z g)) (t := y) (by simpa using hlines) (by simpa using hevents)
  constructor
  · apply State.ext_fields
    case h13 => exact fun k => (by simpa [State.deliver, commit_of_bound hbound] using hl k : _ = _).trans (by cases k <;> rfl)
    case h14 =>
      exact fun k => (by simpa [State.deliver, commit_of_bound hbound] using hlistings k : _ = y.listing k).trans
        (by cases k <;> simp [State.listing])
    all_goals simp [State.deliver, commit_of_bound hbound, hphase, hpolicy, hadmission, hbarred, hport, henables,
      hlast, hreset, hpending, he]
  · exact counted_of_commit (s0 := s.freed seg rest) (x := z) (by simp) (by simp) (by simp [State.deliver])
      (by simp [State.deliver]) (hzgen.trans hgen) (hzmarks.trans hmarks) (by simp [State.deliver]) (by simp [State.deliver])

theorem applied.queues_kept {s u t : State} {g : List Addr} (h : applied s u t g) (hf : t.freeQueue = u.freeQueue)
    (hh : t.holdQueue = u.holdQueue) (hb : t.boundary = u.boundary) :
    t = { u with
      table := t.table, groups := t.groups, poolFree := t.poolFree, generation := t.generation, marks := t.marks } := by
  obtain ⟨hfields, -⟩ := h
  rw [hf, hh, hb] at hfields
  exact hfields

/-! ### The claims that bind (R109 to R111, R114) -/

section
variable {seg : Segment} {s : State} {f : Frame} {rest : List Frame} {a : Addr}

/-- The answer to a claimant, its admission entry removed (R116). -/
theorem State.handReply_removeEntry (s : State) (seg : Segment) (f : Frame) (rest : List Frame) (x : Identity)
    (status : Status) (body : List Byte) :
    ((s.freed seg rest).removeEntry x).handReply seg (replyTo f status body) =
      { s.answered seg f rest status body with admission := s.admission.filter (fun e => decide (e.identity ≠ x)) } := by
  rw [State.removeEntry, State.handReply_admission]
  simp [State.answered]

/-- The admission entry of the claimant goes with the move of the address it claims (R116). -/
theorem moves_claim {z : State} {x : Identity} {b : Binding} (hz : movedTo (s.freed seg rest) (s.freed seg rest) z a b)
    (hk : (s.binding a).isBound = true → b.isBound = true) (status : Status) (body : List Byte) (g : List Addr) :
    moves s { s.answered seg f rest status body with admission := s.admission.filter (fun e => decide (e.identity ≠ x)) }
      ((s.freed seg rest).deliver seg f { state := z.removeEntry x, status := status, rest := body, granted := g }) a b g := by
  have hentry : movedTo (s.freed seg rest) ((s.freed seg rest).removeEntry x) (z.removeEntry x) a b := by
    obtain ⟨h1, h2, h3, h4, h5, h6, h7, h8, h9, h10, h11, h12, h13, h14⟩ := hz.fields
    refine movedTo.intro ?_ (by simpa using hz.2.1) (fun c hc => by simpa using hz.2.2.1 c hc) (by simp) (by simp)
    simp only [State.removeEntry_keeps]
    exact ⟨h1, h2, h3, h4, by simp [State.removeEntry, h5], h6, h7, h8, h9, h10, h11, h12, h13, h14⟩
  have hmoves := hentry.deliver (f := f) hk status body g
  rw [State.handReply_removeEntry] at hmoves
  exact hmoves

/-- The claimant is bound at the address it claims. -/
theorem claimBinds_moves {h : Holder} (hn : ∀ b, b ≠ a → h.identity ∉ (s.binding b).parties) (l : Lease) (v : Bool)
    (status : Status) :
    let t := (s.freed seg rest).deliver seg f (claimBinds h l v status a (s.freed seg rest))
    moves s { s.answered seg f rest status (identityBytes h.identity ++ le16 l.grantedField) with
        admission := s.admission.filter (fun e => decide (e.identity ≠ h.identity)) } t a (.bound h l v none) [a]
      ∧ leavesQueues s t a ∧ membershipsKept s t := by
  obtain ⟨-, -, -, -, -, -, -, -, -, hmoved, -⟩ := movedTo_entries (s.freed seg rest) a
  intro t
  have ht : t = (s.freed seg rest).deliver seg f
      { state := ((s.freed seg rest).enterBound h l v a).removeEntry h.identity, status := status,
        rest := identityBytes h.identity ++ le16 l.grantedField, granted := [a] } := by
    show (s.freed seg rest).deliver seg f (claimBinds ..) = _
    rw [claimBinds, State.settleClaimant_nowhere (s := s) (fun b hb => by simp [hb]) hn]
  rw [ht]
  refine ⟨moves_claim (hmoved h l v) (fun _ => rfl) _ _ _, ⟨?_, ?_⟩, ?_, ?_⟩ <;> simp [State.deliver, State.enterBound]

/-- The four cases of a claimed address that binds its claimant (R109 to R111, R114). -/
theorem claimAt_binds {x : Identity} {c : Byte} :
    (s.binding a = .free → (s.phase.isRecall = true ∨ s.policy.mode = .open_) →
        claimAt a x c seg s = claimBinds ⟨x, c, [], seg⟩ (s.freshLease false .timed) false .ok a s)
      ∧ (∀ r, s.binding a = .reserved r → r.identity = x →
        claimAt a x c seg s = claimBinds ⟨x, c, r.tag, seg⟩ (s.freshLease true r.kind) true .ok a s)
      ∧ (∀ h o r, s.binding a = .offered h o r → h.identity = x →
        claimAt a x c seg s = claimBinds ⟨x, c, h.tag, seg⟩ (s.offerLease o) o.reservedYes .ok a s)
      ∧ (∀ h r, s.binding a = .held (some h) r → h.identity = x →
        claimAt a x c seg s = claimBinds ⟨x, c, h.tag, seg⟩ (s.freshLease false .timed) false .restored a s) := by
  refine ⟨fun hb hg => ?_, fun r hb hr => ?_, fun h o r hb hh => ?_, fun h r hb hh => ?_⟩
  · have hgranted : s.claimGranted = true := by simpa [State.claimGranted] using hg
    simp [claimAt, hb, hgranted]
  · simp [claimAt, hb, hr]
  · simp [claimAt, hb, hh]
  · simp [claimAt, hb, hh]

end

theorem State.freshLease_freed (s : State) (seg : Segment) (rest : List Frame) (v : Bool) (k : LeaseKind) :
    (s.freed seg rest).freshLease v k = s.freshLease v k := by simp [State.freshLease]

/-- Settles O22: the claimant is bound, and a hold of its own elsewhere is made anonymous in the same application. -/
theorem claimBindsTheAddress : Obligations.ClaimBindsTheAddress := by
  intro seg s f rest x c a hs hk ha hx hbar timed binds
  have hbinds : ∀ {status : Status} {tag : Tag} {lease : Lease} {reserved : Bool},
      (∀ b, b ≠ a → x ∉ (s.binding b).parties) →
      claimAt a x c seg (s.freed seg rest) = claimBinds ⟨x, c, tag, seg⟩ lease reserved status a (s.freed seg rest) →
      binds status tag lease reserved := by
    intro status tag lease reserved hn hat
    refine ⟨_, ?_, claimBinds_moves (h := ⟨x, c, tag, seg⟩) hn lease reserved status⟩
    rw [exec_claim_at hs hk ha hx hbar (fun b hb hp => absurd hp (hn b hb)), hat]
  have hcases := claimAt_binds (seg := seg) (s := s.freed seg rest) (a := a) (x := x) (c := c)
  simp only [State.freed_keeps, State.freshLease_freed, State.offerLease_freed] at hcases
  obtain ⟨hfree, hreserved, hoffered, hheld⟩ := hcases
  refine ⟨fun hn => ⟨fun hb hg => hbinds hn (hfree hb hg), fun r hb hr => hbinds hn ?_, fun h o r hb hh => hbinds hn ?_,
    fun h r hb hh => hbinds hn (hheld h r hb hh)⟩, fun b h r hst hba hb hh hfreeb hg => ?_⟩
  · rw [hreserved r hb hr]
    cases hkind : r.kind <;> rfl
  · rw [hoffered h o r hb hh]
    rcases o with _ | _ | _ | _ <;> rfl
  · have hexec := exec_claim_at hs hk ha hx hbar (State.elsewhere_held (a := a) hst hb hh)
    rw [hfree hfreeb hg, claimBinds, State.settleClaimant_held (s := s) hst (fun d hd => by simp [hd]) hba hb hh] at hexec
    have hab : a ≠ b := Ne.symm hba
    obtain ⟨hfields, hcounts⟩ := applied_deliver (s := s) (y := (s.freed seg rest).removeEntry x) (seg := seg) (f := f)
      (rest := rest)
      (z := ((((s.freed seg rest).enterBound ⟨x, c, [], seg⟩ (s.freshLease false .timed) false a).setBinding b
        (.held none r)).dropMember b).removeEntry x) rfl (by simp) (by simp)
      (fun d hd => by
        by_cases hda : d = a
        · simp [hda, hab, Binding.isBound]
        · by_cases hdb : d = b
          · rw [hdb, hb] at hd; cases hd
          · simpa [hda, hdb] using hd) .ok (identityBytes x ++ le16 s.policy.defaultLease) [a]
    rw [State.handReply_removeEntry] at hfields
    refine ⟨_, hexec, hfields, ?_, ?_, fun d hda hdb => ?_, ?_, ?_, hcounts⟩
    · simp [State.deliver, hab]
      rfl
    · simp [State.deliver]
    · simp [State.deliver, hda, hdb]
    · simp [leavesQueues, State.deliver, State.enterBound]
    · simp [membershipsDropped, State.deliver, State.enterBound, State.entriesOf]

/-! ### The claims of a BOUND address (R112, R113) -/

section
variable {seg : Segment} {s : State} {f : Frame} {rest : List Frame} {a : Addr} {h : Holder} {l : Lease} {v : Bool}
  {p : Option Replay} {x : Identity} {c : Byte}

theorem claimAt_own (hb : s.binding a = .bound h l v p) (hx : h.identity = x) :
    claimAt a x c seg s = claimRefreshes ⟨x, c, h.tag, seg⟩ l v a s := by
  simp [claimAt, hb, hx]

theorem claimRefreshes_timed (h : Holder) (g : Nat) (r : Countdown) (v : Bool) (a : Addr) (s : State) :
    claimRefreshes h (.timed g r) v a s =
      { state := (s.setBinding a (.bound h (.timed s.policy.defaultLease ⟨s.policy.defaultLease, false⟩) v none)).settleClaimant
          h.identity a
        status := .ok, rest := identityBytes h.identity ++ le16 s.policy.defaultLease, granted := [a] } := rfl

theorem claimAt_other (hb : s.binding a = .bound h l v p) (hx : h.identity ≠ x) :
    claimAt a x c seg s = claimContests h l v p ⟨x, c, seg⟩ a s := by
  simp [claimAt, hb, hx]

/-- A refresh rewrites the record of the claimant (R112). -/
theorem claim_rewrites {b : Binding} (hk : b.isBound = true) (status : Status) (body : List Byte) (g : List Addr) :
    rewrites s { s.answered seg f rest status body with admission := s.admission.filter (fun e => decide (e.identity ≠ x)) }
      ((s.freed seg rest).deliver seg f
        { state := ((s.freed seg rest).setBinding a b).removeEntry x, status := status, rest := body, granted := g }) a b g := by
  obtain ⟨-, -, -, -, -, -, -, -, -, -, -, -, hmoved⟩ := movedTo_entries (s.freed seg rest) a
  refine (moves_claim (hmoved b) (fun _ => hk) status body g).rewrites ?_ ?_ ?_ ?_ ?_ <;>
    simp [State.deliver, State.answered]

end

/-- Settles O23: by whether the claimant holds the binding. -/
theorem claimRefreshesOrContests : Obligations.ClaimRefreshesOrContests := by
  intro seg s f rest x c a h l v p hs hk ha hx hbar hb entries contest told
  have hown : (s.freed seg rest).binding a = .bound h l v p := by simpa using hb
  have hcontest : Binding.contested h l.frozen v p ⟨x, c, seg⟩ (s.freed seg rest).contestCount = contest := by
    simp [State.contestCount, contest, Countdown.fresh]
  have hpolicy : (s.freed seg rest).policy = s.policy := by simp
  have htold : ((s.freed seg rest).removeEntry x |>.setFactor .contest).handReply seg
      (replyTo f .contested (identityBytes x)) = told := by cases seg <;> rfl
  refine ⟨fun hn => ⟨fun hh hl => ?_, fun hh hl => ?_, fun hh => ?_⟩, fun b k r hh hst hba hbk hkx => ?_⟩
  · obtain ⟨g, r, rfl⟩ : ∃ g r, l = .timed g r := by cases l <;> simp_all [Lease.kind]
    have hexec := exec_claim_at hs hk ha hx hbar (fun b hb hp => absurd hp (hn b hb))
    rw [claimAt_own hown hh, claimRefreshes_timed, State.settleClaimant_nowhere (s := s) (fun b hb => by simp [hb]) hn,
      hpolicy] at hexec
    exact ⟨_, hexec, claim_rewrites rfl _ _ _⟩
  · subst hl
    have hexec := exec_claim_at hs hk ha hx hbar (fun b hb hp => absurd hp (hn b hb))
    rw [claimAt_own hown hh, claimRefreshes, State.settleClaimant_nowhere (s := s) (fun b hb => by simp [hb]) hn] at hexec
    exact ⟨_, hexec, claim_rewrites rfl _ _ _⟩
  · have hexec := exec_claim_at hs hk ha hx hbar (fun b hb hp => absurd hp (hn b hb))
    rw [claimAt_other hown hh, claimContests, hcontest,
      State.settleClaimant_nowhere (s := s) (fun b hb => by simp [hb]) hn, claimAnswer] at hexec
    have hmoved : movedTo (s.freed seg rest) (((s.freed seg rest).removeEntry x).setFactor .contest)
        ((((s.freed seg rest).setBinding a contest).removeEntry x).setFactor .contest) a contest :=
      ⟨rfl, by simp, fun d hd => by simp [hd], by simp, by simp⟩
    have hmoves := hmoved.deliver (f := f) (fun _ => rfl) .contested (identityBytes x) []
    rw [htold] at hmoves
    refine ⟨_, hexec, hmoves.rewrites ?_ ?_ ?_ ?_ ?_⟩ <;> simp [State.deliver, ← htold]
  · have hexec := exec_claim_at hs hk ha hx hbar (State.elsewhere_held (a := a) hst hbk hkx)
    rw [claimAt_other hown hh, claimContests, hcontest,
      State.settleClaimant_held (s := s) hst (fun d hd => by simp [hd]) hba hbk hkx, claimAnswer] at hexec
    have hab : a ≠ b := Ne.symm hba
    obtain ⟨hfields, hcounts⟩ := applied_deliver (s := s) (y := ((s.freed seg rest).removeEntry x).setFactor .contest)
      (seg := seg) (f := f) (rest := rest)
      (z := (((((s.freed seg rest).setBinding a contest).setBinding b (.held none r)).dropMember b).removeEntry x).setFactor
        .contest) rfl (by simp) (by simp)
      (fun d hd => by
        by_cases hda : d = a
        · simp [hda, hab, contest, Binding.isBound]
        · by_cases hdb : d = b
          · rw [hdb, hbk] at hd; cases hd
          · simpa [hda, hdb] using hd) .contested (identityBytes x) []
    rw [htold] at hfields
    refine ⟨_, hexec, applied.queues_kept ⟨hfields, hcounts⟩ ?_ ?_ ?_, ?_, ?_, fun d hda hdb => ?_, ?_, hcounts⟩
    · simp [State.deliver, ← htold]
    · simp [State.deliver, ← htold]
    · simp [State.deliver, ← htold]
    · simp [State.deliver, hab]
    · simp [State.deliver]
    · simp [State.deliver, hda, hdb]
    · simp [membershipsDropped, State.deliver, State.entriesOf]

/-! ### The claims that are turned away (R107, R109, R115) -/

/-- Settles O24: each claim comes to an answer that leaves the state as it is. -/
theorem claimTurnsAway : Obligations.ClaimTurnsAway := by
  intro seg s f rest x c a hs hk ha hx
  refine ⟨fun hbar => ?_, fun b hbar hst hba hb hheld => ?_, fun hbar hn => ⟨fun hb hp hm => ?_, fun hb hbound hparty => ?_,
    fun hst hparty => ?_⟩⟩
  · have hrun : runClaim seg a (x, c) (s.freed seg rest) = claimAnswer x .barred (s.freed seg rest) := by
      simp [runClaim, State.isBarred, hbar]
    rw [exec_claim hs hk ha hx, hrun, claimAnswer, State.deliver_unchanged]
  · have hfind : (s.freed seg rest).findElsewhere (Binding.movedBy x) a = some b :=
      State.findElsewhere_some hba (Binding.movedBy_iff.mpr (by simpa using ⟨hb, hheld⟩))
        (fun d _ hd => party_unique hst hb (Binding.movedBy_iff.mp (by simpa using hd)).1)
    have hrun : runClaim seg a (x, c) (s.freed seg rest) =
        { state := s.freed seg rest, status := .moved, rest := identityBytes x ++ [addrByte b] } := by
      simp [runClaim, State.isBarred, hbar, hfind]
    rw [exec_claim hs hk ha hx, hrun, State.deliver_unchanged]
  · have hat : claimAt a x c seg (s.freed seg rest) = claimAnswer x .refused (s.freed seg rest) := by
      simp [claimAt, hb, State.claimGranted, hp, Phase.isRecall, hm]
    rw [exec_claim_at hs hk ha hx hbar hn, hat, claimAnswer, State.deliver_unchanged]
  · have hother : ∀ y ∈ (s.binding a).parties, y ≠ x := fun y hy hyx => hparty (hyx ▸ hy)
    have hat : claimAt a x c seg (s.freed seg rest) = claimAnswer x .taken (s.freed seg rest) := by
      cases hB : s.binding a with
      | free => exact absurd hB hb
      | bound _ _ _ _ => simp [hB, Binding.state] at hbound
      | held o r =>
        cases o with
        | none => simp [claimAt, hB]
        | some k => simp_all [claimAt, Binding.parties]
      | reserved _ | offered _ _ _ | contested _ _ _ _ _ _ => simp_all [claimAt, Binding.parties]
    rw [exec_claim_at hs hk ha hx hbar hn, hat, claimAnswer, State.deliver_unchanged]
  · have hat : claimAt a x c seg (s.freed seg rest) = claimAnswer x .contested (s.freed seg rest) := by
      cases hB : s.binding a with
      | contested k l v p ch r =>
        have hkc : k.identity = x ∨ ch.identity = x := by simpa [hB, Binding.parties, eq_comm] using hparty
        simp [claimAt, hB, hkc]
      | free | reserved _ | offered _ _ _ | bound _ _ _ _ | held _ _ => simp [hB, Binding.state] at hst
    rw [exec_claim_at hs hk ha hx hbar hn, hat, claimAnswer, State.deliver_unchanged]

end Sys2Proof.Machine
end

section
/-! PROOFS. The expiries of the directory timers and the seconds boundary (R65, R70, R79 to R81, R86, R89, R101, R123). -/

namespace Sys2Proof.Machine

/-! ### What an expiry leaves -/

section
variable (a : Addr) (s : State)

/-- A count that is not due expires nothing (R79). -/
theorem State.expiries_same {s : State} {a : Addr} (h : (s.binding a).due = false) :
    s.lapseOffer a = s ∧ s.expireLease a = s ∧ s.expireHold a = s ∧ s.expireContest a = s := by
  unfold State.lapseOffer State.expireLease State.expireHold State.expireContest
  cases hB : s.binding a with
  | free | reserved _ => exact ⟨rfl, rfl, rfl, rfl⟩
  | offered _ _ r | held _ r => rw [hB] at h; simp_all [Binding.due]
  | bound _ l _ _ => rw [hB] at h; cases l <;> simp_all [Binding.due]
  | contested _ _ _ _ _ k => rw [hB] at h; cases k <;> simp_all [Binding.due]

/-- What an expiry leads to is not due at the same boundary. -/
theorem State.expireBinding_due : ((s.expireBinding a).binding a).due = false := by
  by_cases hdue : (s.binding a).due = true
  · unfold State.expireBinding State.lapseOffer State.expireLease State.expireHold State.expireContest
    cases hB : s.binding a with
    | free | reserved _ => simp [hB, Binding.due] at hdue
    | offered h o r =>
      rw [hB] at hdue
      replace hdue : r.due = true := hdue
      cases o <;> by_cases hz : s.policy.holdPeriod = 0 <;>
        simp [hdue, State.returnOffer, State.goHeldWith_binding, hz, Binding.due, Countdown.fresh]
    | bound h l v p =>
      rw [hB] at hdue
      cases l with
      | permanent => simp [Binding.due] at hdue
      | timed g r =>
        replace hdue : r.due = true := hdue
        cases v <;> by_cases hz : s.policy.holdPeriod = 0 <;>
          simp [hdue, State.giveUp, State.goHeldWith_binding, hz, Binding.due, Countdown.fresh]
    | held o r =>
      rw [hB] at hdue
      replace hdue : r.due = true := hdue
      simp [hdue, Binding.due]
    | contested h l v p c k =>
      rw [hB] at hdue
      cases k with
      | none => simp [Binding.due] at hdue
      | some r =>
        replace hdue : r.due = true := hdue
        cases v <;> rcases l with _ | _ <;>
          simp [hdue, State.freshLease, Lease.kind, Lease.grant, Binding.due, Countdown.fresh]
  · rw [State.expireBinding_same (by simpa using hdue)]
    simpa using hdue

/-- An expiry of a binding leaves the admission queue, the phase and the reset as they are. -/
theorem State.expireBinding_keeps :
    (s.expireBinding a).admission = s.admission ∧ (s.expireBinding a).phase = s.phase
      ∧ (s.expireBinding a).inReset = s.inReset := by
  unfold State.expireBinding State.lapseOffer State.expireLease State.expireHold State.expireContest
  (repeat' split) <;> simp

/-- Of the four expiries of an address at most the one of its state acts, and what it leads to is not due. -/
theorem State.expiries_compose :
    (((s.lapseOffer a).expireLease a).expireHold a).expireContest a = s.expireBinding a := by
  obtain ⟨hlapse, hlease, hhold, hcontest⟩ := State.expiries_same (s.expireBinding_due a)
  cases hB : s.binding a with
  | free | reserved _ =>
    have hsame := State.expiries_same (s := s) (a := a) (by rw [hB]; rfl)
    simp [hsame, State.expireBinding, hB]
  | offered h o r =>
    have heq : s.lapseOffer a = s.expireBinding a := by simp [State.expireBinding, hB]
    rw [heq, hlease, hhold, hcontest]
  | bound h l v p =>
    have heq : s.expireLease a = s.expireBinding a := by simp [State.expireBinding, hB]
    have hskip : s.lapseOffer a = s := by simp [State.lapseOffer, hB]
    rw [hskip, heq, hhold, hcontest]
  | held o r =>
    have heq : s.expireHold a = s.expireBinding a := by simp [State.expireBinding, hB]
    have hskip : s.lapseOffer a = s ∧ s.expireLease a = s := by simp [State.lapseOffer, State.expireLease, hB]
    rw [hskip.1, hskip.2, heq, hcontest]
  | contested h l v p c k =>
    have heq : s.expireContest a = s.expireBinding a := by simp [State.expireBinding, hB]
    have hskip : s.lapseOffer a = s ∧ s.expireLease a = s ∧ s.expireHold a = s := by
      simp [State.lapseOffer, State.expireLease, State.expireHold, hB]
    rw [hskip.1, hskip.2.1, hskip.2.2, heq]

end

/-! ### The rows of the expiries (log 3) -/

section
variable {s : State}

theorem exec_expiries {b : Byte} {a : Addr} (hr : s.inReset = none) (hp : s.phase.isStopped = false) (hb : addrOf? b = some a) :
    exec (.offerLapse b) s = .next (s.lapseOffer a) ∧ exec (.leaseExpiry b) s = .next (s.expireLease a)
      ∧ exec (.holdExpiry b) s = .next (s.expireHold a) ∧ exec (.contestExpiry b) s = .next (s.expireContest a) :=
  ⟨congrArg _ (State.atAddress_run hr hp hb), congrArg _ (State.atAddress_run hr hp hb),
    congrArg _ (State.atAddress_run hr hp hb), congrArg _ (State.atAddress_run hr hp hb)⟩

/-- No expiry of an address stops the timers. -/
theorem State.expiries_serving (a : Addr) (s : State) :
    (s.lapseOffer a).inReset = s.inReset ∧ (s.lapseOffer a).phase = s.phase ∧ (s.expireLease a).inReset = s.inReset
      ∧ (s.expireLease a).phase = s.phase ∧ (s.expireHold a).inReset = s.inReset ∧ (s.expireHold a).phase = s.phase := by
  unfold State.lapseOffer State.expireLease State.expireHold
  (repeat' split) <;> simp

theorem addrOf_addrByte : ∀ a, addrOf? (addrByte a) = some a := by decide

theorem runs_address {a : Addr} (hr : s.inReset = none) (hp : s.phase.isStopped = false) :
    runs [.offerLapse (addrByte a), .leaseExpiry (addrByte a), .holdExpiry (addrByte a), .contestExpiry (addrByte a)] s
      (s.expireBinding a) := by
  have hserving := fun t : State => State.expiries_serving a t
  have hb : addrOf? (addrByte a) = some a := addrOf_addrByte a
  have h1 := exec_expiries hr hp hb
  have h2 := exec_expiries (s := s.lapseOffer a) (by simp [hserving, hr]) (by simp [hserving, hp]) hb
  have h3 := exec_expiries (s := (s.lapseOffer a).expireLease a) (by simp [hserving, hr]) (by simp [hserving, hp]) hb
  have h4 := exec_expiries (s := ((s.lapseOffer a).expireLease a).expireHold a) (by simp [hserving, hr])
    (by simp [hserving, hp]) hb
  exact ⟨_, h1.1, _, h2.2.1, _, h3.2.2.1, _, h4.2.2.2, (State.expiries_compose a s).symm⟩

/-- The rows of the expiries of an address (log 3). -/
def expiryRows (a : Addr) : List Instr :=
  [.offerLapse (addrByte a), .leaseExpiry (addrByte a), .holdExpiry (addrByte a), .contestExpiry (addrByte a)]

theorem State.expireBindings_keeps (l : List Addr) (s : State) :
    (s.expireBindings l).admission = s.admission ∧ (s.expireBindings l).phase = s.phase
      ∧ (s.expireBindings l).inReset = s.inReset := by
  induction l generalizing s with
  | nil => exact ⟨rfl, rfl, rfl⟩
  | cons a l ih =>
    obtain ⟨h1, h2, h3⟩ := s.expireBinding_keeps a
    rw [State.expireBindings_cons, ← h1, ← h2, ← h3]
    exact ih _

theorem runs_addresses (l : List Addr) (s : State) (hr : s.inReset = none) (hp : s.phase.isStopped = false) :
    runs (l.flatMap expiryRows) s (s.expireBindings l) := by
  induction l generalizing s with
  | nil => rfl
  | cons a l ih =>
    obtain ⟨-, hphase, hreset⟩ := s.expireBinding_keeps a
    rw [List.flatMap_cons, runs_append, State.expireBindings_cons]
    exact ⟨_, runs_address hr hp, ih _ (hreset.trans hr) (by rw [hphase]; exact hp)⟩

theorem State.expireBindings_due (l : List Addr) (s : State) (a : Addr) (h : a ∈ l ∨ (s.binding a).due = false) :
    ((s.expireBindings l).binding a).due = false := by
  induction l generalizing s with
  | nil => exact h.resolve_left (List.not_mem_nil)
  | cons c l ih =>
    rw [State.expireBindings_cons]
    refine ih _ ?_
    by_cases hac : a = c
    · exact .inr (hac ▸ s.expireBinding_due a)
    · rw [State.expireBinding_others hac]
      exact h.imp_left (fun hm => (List.mem_cons.mp hm).resolve_left hac)

/-! ### The rows of the admission waits and of the recall window -/

theorem exec_waitExpiry (x : Identity) (hr : s.inReset = none) (hp : s.phase.isStopped = false) :
    exec (.admissionWaitExpiry x) s = .next (s.expireWait x) := by
  show Host.Outcome.next (if s.timersRun then s.expireWait x else s) = _
  simp [State.timersRun, hr, hp]

theorem exec_recallExpiry (hr : s.inReset = none) (hp : s.phase.isStopped = false) :
    exec .recallWindowExpiry s = .next s.expireRecall := by
  show Host.Outcome.next (if s.timersRun then s.expireRecall else s) = _
  simp [State.timersRun, hr, hp]

/-- The waits of a list of identities run out, those that are due. -/
theorem runs_waits (xs : List Identity) (s : State) (hr : s.inReset = none) (hp : s.phase.isStopped = false) :
    runs (xs.map .admissionWaitExpiry) s
      { s with admission := s.admission.filter (fun e => !(xs.contains e.identity && e.wait.due)) } := by
  induction xs generalizing s with
  | nil =>
    have hall : s.admission.filter (fun e => !(([] : List Identity).contains e.identity && e.wait.due)) = s.admission :=
      List.filter_eq_self.mpr (fun _ _ => rfl)
    exact congrArg (fun q => { s with admission := q }) hall
  | cons x xs ih =>
    refine ⟨_, exec_waitExpiry x hr hp, ?_⟩
    have hfilter : (s.expireWait x).admission.filter (fun e => !(xs.contains e.identity && e.wait.due)) =
        s.admission.filter (fun e => !((x :: xs).contains e.identity && e.wait.due)) := by
      simp only [State.expireWait, List.filter_filter]
      refine List.filter_congr (fun e _ => ?_)
      by_cases hx : e.identity = x <;> cases e.wait.due <;> simp [hx]
    rw [← hfilter]
    exact ih (s.expireWait x) hr hp

/-- The rows of every expiry that may be due, bindings first, then admission waits, then the recall window (log 3). -/
theorem runs_expiries (l : List Addr) (hr : s.inReset = none) (hp : s.phase.isStopped = false) :
    runs (l.flatMap expiryRows ++ s.admission.map (fun e => .admissionWaitExpiry e.identity) ++ [.recallWindowExpiry]) s
      (s.expireBindings l).expireWaits.expireRecall := by
  obtain ⟨hadmission, hphase, hreset⟩ := s.expireBindings_keeps l
  have hbindings := runs_addresses l s hr hp
  rw [← hphase] at hp
  rw [← hreset] at hr
  rw [← hadmission]
  generalize s.expireBindings l = t at *
  have hwaits := runs_waits (t.admission.map (·.identity)) t hr hp
  have hall : t.admission.filter (fun e => !((t.admission.map (·.identity)).contains e.identity && e.wait.due)) =
      t.expireWaits.admission := by
    refine List.filter_congr (fun e he => ?_)
    have hmem : (t.admission.map (·.identity)).contains e.identity = true := by simpa using ⟨e, he, rfl⟩
    rw [hmem, Bool.true_and]
  rw [hall, List.map_map] at hwaits
  exact (runs_append).mpr ⟨_, (runs_append).mpr ⟨_, hbindings, hwaits⟩, _, exec_recallExpiry hr hp, rfl⟩

/-- What is due is settled. -/
theorem State.settleDue_settled (s : State) (hp : s.phase.isStopped = false) :
    s.settleDue.inReset = s.inReset ∧ s.settleDue.phase.isStopped = false ∧ (∀ a, (s.settleDue.binding a).due = false)
      ∧ (∀ e ∈ s.settleDue.admission, e.wait.due = false) ∧ ∀ r, s.settleDue.phase = .recall r → r.due = false := by
  obtain ⟨-, hphase, hreset⟩ := s.expireBindings_keeps allAddrs
  have hdue := fun a => State.expireBindings_due allAddrs s a (.inl (mem_allAddrs a))
  rw [State.settleDue_eq]
  generalize s.expireBindings allAddrs = t at *
  have hwait : ∀ e ∈ t.expireWaits.admission, e.wait.due = false := by
    intro e he
    simpa using (List.mem_filter.mp he).2
  unfold State.expireRecall
  have hph : t.expireWaits.phase = s.phase := hphase
  split
  · rename_i r hr
    split
    · exact ⟨hreset, rfl, hdue, hwait, nofun⟩
    · rename_i hd
      refine ⟨hreset, by rw [hph]; exact hp, hdue, hwait, fun q hq => ?_⟩
      rw [hr] at hq
      cases hq
      simpa using hd
  · rename_i hr; rw [hph] at hr; rw [hr] at hp; cases hp
  · rename_i hr
    refine ⟨hreset, by rw [hph]; exact hp, hdue, hwait, fun q hq => ?_⟩
    rw [hr] at hq
    cases hq

end

/-! ### The seconds boundary -/

theorem Countdown.tick_eq {r : Countdown} (h : r.due = false) :
    r.tick = if r.remaining ≤ 1 then (⟨r.remaining, true⟩ : Countdown) else ⟨r.remaining - 1, false⟩ := by
  rw [Countdown.tick, h]

/-- Settles O25: a boundary settles what is due, which the rows of the expiries do as well, and lets a second pass. -/
theorem secondsBoundaryCountsDown : Obligations.SecondsBoundaryCountsDown := by
  intro s hr
  refine ⟨fun hp => ?_, fun hp hb he hph => ?_, fun hp => ?_⟩
  · show Host.Outcome.next s.secondsBoundary = _
    simp [State.secondsBoundary, hr, hp, Phase.isStopped, State.openBoundary]
  · have hstep : exec .secondsBoundary s = .next s.openBoundary.tick := by
      show Host.Outcome.next s.secondsBoundary = _
      simp [State.secondsBoundary, hr, hp, State.settleDue_same hb he hph]
    intro less
    have hless : ∀ r : Countdown, r.due = false → r.tick = less r := fun r h => Countdown.tick_eq h
    have htick : ∀ a, s.openBoundary.tick.binding a = (s.binding a).tick := fun a => by rw [State.binding_tick]; rfl
    refine ⟨_, hstep, rfl, ?_, fun h => ?_, fun r h => ?_, fun a => ?_⟩
    · exact List.map_congr_left (fun e h => by rw [hless _ (he e h)])
    · show s.phase.tick = _
      rw [h]; rfl
    · show s.phase.tick = _
      rw [h, Phase.tick, hless r (hph r h)]
    · have hdue := hb a
      rw [htick]
      refine ⟨fun h o r hB => ?_, fun h g r v p hB => ?_, fun h v p hB => ?_, fun o r hB => ?_, fun h l v p c r hB => ?_,
        fun h l v p c hB => ?_, fun r hB => ?_, fun hB => ?_⟩ <;> rw [hB] at hdue ⊢
      · rw [Binding.tick, hless r hdue]
      · rw [Binding.tick, Lease.tick, hless r hdue]
      · rfl
      · rw [Binding.tick, hless r hdue]
      · rw [Binding.tick, Option.map_some, hless r hdue]
      all_goals rfl
  · obtain ⟨hreset, hphase, hdue, hwait, hrecall⟩ := s.settleDue_settled hp
    have hruns := runs_expiries allAddrs hr hp
    rw [← State.settleDue_eq] at hruns
    refine ⟨s.settleDue, hruns, ?_, hreset.trans hr, hphase, hdue, hwait, hrecall⟩
    show Host.Outcome.next s.secondsBoundary = .next s.settleDue.secondsBoundary
    simp [State.secondsBoundary, hr, hreset, hp, hphase, State.settleDue_same hdue hwait hrecall]

end Sys2Proof.Machine
end

section
/-! PROOFS. The first expiries of a boundary, the expiry of a contest, of a wait and of the recall window, and the
acknowledgement timer (R65, R70, R86, R89, R101, R123, R135). -/

namespace Sys2Proof.Machine

/-! ### Expiries that act -/

section
variable {s : State} {a : Addr}

theorem State.lapseOffer_due {h : Holder} {o : Origin} {r : Countdown} (hb : s.binding a = .offered h o r) (hd : r.due = true) :
    s.lapseOffer a = commit s [] (s.returnOffer h o .lapse true a) := by
  simp [State.lapseOffer, hb, hd]

theorem State.expireLease_due {h : Holder} {g : Nat} {r : Countdown} {v : Bool} {p : Option Replay}
    (hb : s.binding a = .bound h (.timed g r) v p) (hd : r.due = true) :
    s.expireLease a = commit s [] (s.giveUp h (.timed g r) v true a) := by
  simp [State.expireLease, hb, hd]

theorem State.expireHold_due {o : Option Holder} {r : Countdown} (hb : s.binding a = .held o r) (hd : r.due = true) :
    s.expireHold a = commit s [] (s.goFree .holdExpiry a) := by
  simp [State.expireHold, hb, hd]

theorem State.expireContest_due {h : Holder} {l : Lease} {v : Bool} {p : Option Replay} {c : Challenger} {r : Countdown}
    (hb : s.binding a = .contested h l v p c (some r)) (hd : r.due = true) :
    s.expireContest a = commit s [a] ((s.keepIncumbent h l v a).sendVacate a c.identity c.segment .contestLost) := by
  simp [State.expireContest, hb, hd]

/-- A move out of a binding that was not bound, as its application leaves it. -/
theorem movedTo.commit_other {x : State} {b : Binding} (h : movedTo s s x a b) (hk : (s.binding a).isBound = false) :
    moves s s (commit s [] x) a b [] :=
  h.commit_kept [] (fun hb => by rw [hk] at hb; cases hb)

/-- A move to FREE at a place of the free queue, as its application leaves it. -/
theorem goesFree_commit (p : FreePlace) (hk : (s.binding a).isBound = false) :
    moves s s (commit s [] (s.goFree p a)) a .free []
      ∧ (commit s [] (s.goFree p a)).freeQueue = (s.goFree p a).freeQueue
      ∧ (commit s [] (s.goFree p a)).holdQueue = dropAddr a s.holdQueue
      ∧ membershipsDropped s (commit s [] (s.goFree p a)) a := by
  obtain ⟨hgroups, hpool⟩ := State.goFree_drops p a s
  exact ⟨((movedTo_entries s a).1 p).commit_other hk, by simp, by simp, fun g => by simp [hgroups], by simp [hpool]⟩

end

/-- Settles O26: each expiry as the move of one binding. -/
theorem expiriesEndOffersLeasesAndHolds : Obligations.ExpiriesEndOffersLeasesAndHolds := by
  intro s b a hr hp hb
  obtain ⟨hlapse, hlease, hhold, hcontest⟩ := exec_expiries hr hp hb
  refine ⟨fun hd => ?_, fun h1 h2 h3 h4 => ⟨fun h o r hB hd => ?_, fun h g r v p hB hd => ?_, fun o r hB hd => ?_⟩⟩
  · obtain ⟨e1, e2, e3, e4⟩ := State.expiries_same hd
    rw [hlapse, hlease, hhold, hcontest, e1, e2, e3, e4]
    exact ⟨rfl, rfl, rfl, rfl⟩
  · have hfirst : s.boundary.untouched := ⟨h1, h2, h3, h4⟩
    have hunbound : (s.binding a).isBound = false := by rw [hB]; rfl
    refine ⟨_, hlapse, ?_⟩
    rw [State.lapseOffer_due hB hd]
    cases o with
    | free =>
      obtain ⟨hmoves, hfree, hhold, hdropped⟩ := goesFree_commit (s := s) (a := a) .lapse hunbound
      exact ⟨hmoves, hfree.trans (State.goFree_first a s hfirst).1, hhold, hdropped⟩
    | held =>
      obtain ⟨-, hmoved, -⟩ := movedTo_entries s a
      exact goesHeldWith_of (n := true) (fun _ => hfirst)
        (fun b hbind => by rw [← hbind]; exact (hmoved h true).commit_other hunbound) (by simp [State.returnOffer])
        (by simp [State.returnOffer]) (by simp [State.returnOffer]) (by simp [State.returnOffer]) (by simp [State.returnOffer])
    | reserved k =>
      obtain ⟨-, -, -, hmoved, -⟩ := movedTo_entries s a
      obtain ⟨⟨hgroups, hpool⟩, hfree, hhold⟩ := State.goReserved_drops (h.reservation k) a s
      exact ⟨(hmoved _).commit_other hunbound, ⟨by simpa [State.returnOffer] using hfree,
        by simpa [State.returnOffer] using hhold⟩, fun g => by simpa [State.returnOffer] using hgroups g,
        by simpa [State.returnOffer] using hpool⟩
  · have hfirst : s.boundary.untouched := ⟨h1, h2, h3, h4⟩
    obtain ⟨-, -, -, -, -, hmoved, -⟩ := movedTo_entries s a
    refine ⟨_, hlease, ?_⟩
    rw [State.expireLease_due hB hd]
    refine givesUp_of (n := true) (fun _ => hfirst) (fun b hbind => ?_) (by simp) (by simp) (by simp) (by simp) (by simp)
    rw [← hbind]
    exact (hmoved h (.timed g r) v true).commit_unbound [] (by rw [hB]; rfl) (State.giveUp_unbound ..)
  · have hunbound : (s.binding a).isBound = false := by rw [hB]; rfl
    obtain ⟨hmoves, hfree, hholdq, hdropped⟩ := goesFree_commit (s := s) (a := a) .holdExpiry hunbound
    refine ⟨_, hhold, ?_⟩
    rw [State.expireHold_due hB hd]
    exact ⟨hmoves, hfree.trans (State.goFree_first a s ⟨h1, h2, h3, h4⟩).2.1, hholdq, hdropped⟩

/-- Settles O28: a contest ends for the incumbent; a wait and the recall end in one place each. -/
theorem contestsWaitsAndRecallExpire : Obligations.ContestsWaitsAndRecallExpire := by
  intro s hr hp
  refine ⟨fun b a h l v p c r hb hB hd => ?_, fun x => exec_waitExpiry x hr hp, fun r hph hd => ?_, fun hd => ?_⟩
  · obtain ⟨-, -, -, hcontest⟩ := exec_expiries hr hp hb
    obtain ⟨-, -, -, -, -, -, -, -, -, -, hmoved, -⟩ := movedTo_entries s a
    have hkept := ((hmoved h l v).sendVacate a c.identity c.segment .contestLost).commit_kept [a] (fun _ => rfl)
    rw [State.keeperLease_eq] at hkept
    refine ⟨_, hcontest, ?_⟩
    rw [State.expireContest_due hB hd]
    refine ⟨hkept, ⟨?_, ?_⟩, ?_, ?_⟩ <;> simp [State.keepIncumbent, State.enterBound]
  · rw [exec_recallExpiry hr hp, State.expireRecall, hph]
    simp [hd]
  · rw [exec_recallExpiry hr hp, State.expireRecall]
    split
    · rename_i r hph
      simp [hd r hph]
    all_goals rfl

/-- Settles O29: the timer sends the frame again, or ends the listing. -/
theorem ackTimerResendsOrAbandons : Obligations.AckTimerResendsOrAbandons := by
  intro s seg l n hr hl hn
  have hrow : exec (.ackTimerExpiry seg) s = .next (s.ackTimeout seg) := by
    show Host.Outcome.next (if s.inReset.isSome then s else s.ackTimeout seg) = _
    simp [hr]
  have hresend : l.sends < 4 → s.ackTimeout seg =
      (s.setListing seg (some { l with sends := l.sends + 1, timer := none })).sendListing seg := by
    intro h
    simp [State.ackTimeout, hl, hn, Config.listingSends, h]
  refine ⟨fun h hd hq => ?_, fun h hd => ?_, fun h => ⟨_, hrow, ?_, ?_⟩⟩
  · rw [hrow, hresend h, State.send_joins hd hq rfl]
    rfl
  · rw [hrow, hresend h, State.send_dropped hd]
  · simp [State.ackTimeout, hl, hn, Config.listingSends, Nat.not_lt.mpr h]
  · simp [State.ackTimeout, hl, hn, Config.listingSends, Nat.not_lt.mpr h, State.listing_endListing]

end Sys2Proof.Machine
end

section
/-! PROOFS. Two expiries of one boundary take the places R20 and R22 give, whichever is applied first. -/

namespace Sys2Proof.Machine

/-! ### Joining a queue -/

section
variable {α : Type} {p : α → Bool} {x y : α} {q : List α}

theorem insertBefore_of_all (h : ∀ z ∈ q, p z = true) : insertBefore p x q = x :: q := by
  cases q with
  | nil => rfl
  | cons z q => simp [insertBefore, h z (by simp)]

theorem insertBefore_of_none (h : ∀ z ∈ q, p z = false) : insertBefore p x q = q ++ [x] := by
  induction q with
  | nil => rfl
  | cons z q ih => simp [insertBefore, h z (by simp), ih (fun w hw => h w (by simp [hw]))]

/-- Ahead of the last alone. -/
theorem insertBefore_last (h : ∀ z ∈ q, p z = false) (hy : p y = true) : insertBefore p x (q ++ [y]) = q ++ [x, y] := by
  induction q with
  | nil => simp [insertBefore, hy]
  | cons z q ih => simp [insertBefore, h z (by simp), ih (fun w hw => h w (by simp [hw]))]

@[simp] theorem dropAddr_nil (a : Addr) : dropAddr a [] = [] := rfl

/-- Of two that join the tail the lower stands first, whichever joined first. -/
theorem insertBefore_ascending {l : List Addr} {a c : Addr} (hc : c ∉ l) (hlt : a < c) :
    insertBefore (fun z => [a].contains z && decide (c < z)) c (l ++ [a]) = l ++ [a, c]
      ∧ insertBefore (fun z => [c].contains z && decide (a < z)) a (l ++ [c]) = l ++ [a, c] := by
  constructor
  · rw [insertBefore_of_none]
    · simp
    · intro z _
      by_cases hza : z = a
      · simp [hza, Fin.not_lt.mpr (Fin.le_of_lt hlt)]
      · simp [hza]
  · refine insertBefore_last (fun z hz => ?_) (by simp [hlt])
    have hzc : z ≠ c := by rintro rfl; exact hc hz
    simp [hzc]

end

section
variable {s : State} {a c : Addr}

/-- The free queue after two expiries, one behind the other, have joined it. -/
def State.joinedFree (s : State) (p : FreePlace) (a : Addr) (q : FreePlace) (c : Addr) : List Addr :=
  ((((s.leaveQueues a).joinFree p a).leaveQueues c).joinFree q c).freeQueue

/-- The hold queue after two expiries, one behind the other, have joined it. -/
def State.joinedHold (s : State) (a c : Addr) : List Addr :=
  ((((s.leaveQueues a).joinHold true a).leaveQueues c).joinHold true c).holdQueue

/-- What the boundary finds when no expiry has been applied. -/
theorem State.boundary_first {s : State} (hbd : s.boundary = { Boundary.none with holds := s.holdQueue }) :
    s.boundary.lapsed = [] ∧ s.boundary.expired = [] ∧ s.boundary.others = [] ∧ s.boundary.entered = []
      ∧ s.boundary.holds = s.holdQueue := by
  rw [hbd]; exact ⟨rfl, rfl, rfl, rfl, rfl⟩

variable (hbd : s.boundary = { Boundary.none with holds := s.holdQueue }) (hac : a ≠ c)
include hbd hac

/-- Lapsed offers stand at the head in ascending order (R20). -/
theorem State.joinedFree_lapses (ha : a ∉ s.freeQueue) (hc : c ∉ s.freeQueue) (hlt : a < c) :
    s.joinedFree .lapse a .lapse c = a :: c :: s.freeQueue ∧ s.joinedFree .lapse c .lapse a = a :: c :: s.freeQueue := by
  obtain ⟨hl, -⟩ := s.boundary_first hbd
  have hcases : ∀ {x y : Addr}, x ≠ y → x ∉ s.freeQueue → y ∉ s.freeQueue → s.joinedFree .lapse x .lapse y =
      insertBefore (fun z => !([x].contains z && decide (z < y))) y (x :: s.freeQueue) := by
    intro x y hxy hx hy
    have hfirst : dropAddr y (x :: s.freeQueue) = x :: s.freeQueue := dropAddr_of_not_mem (by simp [hy, Ne.symm hxy])
    have hlapsed : dropAddr y [x] = [x] := dropAddr_of_not_mem (by simpa using Ne.symm hxy)
    simp [State.joinedFree, State.joinFree, State.leaveQueues, hl, dropAddr_of_not_mem hx, hfirst, hlapsed,
      dropAddr_nil]
  have hall : ∀ z ∈ s.freeQueue, (!([a].contains z && decide (z < c))) = true := by
    intro z hz
    have hza : z ≠ a := by rintro rfl; exact ha hz
    simp [hza]
  rw [hcases hac ha hc, hcases (Ne.symm hac) hc ha]
  constructor
  · rw [insertBefore, if_neg (by simp [hlt]), insertBefore_of_all hall]
  · rw [insertBefore, if_pos (by simp [Fin.not_lt.mpr (Fin.le_of_lt hlt)])]

/-- Tail joins of one boundary stand in ascending order (R20). -/
theorem State.joinedFree_others (ha : a ∉ s.freeQueue) (hc : c ∉ s.freeQueue) (hlt : a < c) :
    s.joinedFree .otherExpiry a .otherExpiry c = s.freeQueue ++ [a, c]
      ∧ s.joinedFree .otherExpiry c .otherExpiry a = s.freeQueue ++ [a, c] := by
  obtain ⟨-, -, ho, -⟩ := s.boundary_first hbd
  have hcases : ∀ {x y : Addr}, x ≠ y → x ∉ s.freeQueue → y ∉ s.freeQueue → s.joinedFree .otherExpiry x .otherExpiry y =
      insertBefore (fun z => [x].contains z && decide (y < z)) y (s.freeQueue ++ [x]) := by
    intro x y hxy hx hy
    have hfirst : dropAddr y (s.freeQueue ++ [x]) = s.freeQueue ++ [x] := dropAddr_of_not_mem (by simp [hy, Ne.symm hxy])
    have hothers : dropAddr y [x] = [x] := dropAddr_of_not_mem (by simpa using Ne.symm hxy)
    simp [State.joinedFree, State.joinFree, State.leaveQueues, ho, dropAddr_of_not_mem hx, hfirst, hothers,
      dropAddr_nil]
  rw [hcases hac ha hc, hcases (Ne.symm hac) hc ha]
  exact insertBefore_ascending hc hlt

/-- Holds that expire stand ahead of the other tail joins (R20). -/
theorem State.joinedFree_hold_other (ha : a ∉ s.freeQueue) (hc : c ∉ s.freeQueue) :
    s.joinedFree .holdExpiry a .otherExpiry c = s.freeQueue ++ [a, c]
      ∧ s.joinedFree .otherExpiry c .holdExpiry a = s.freeQueue ++ [a, c] := by
  obtain ⟨-, he, ho, -⟩ := s.boundary_first hbd
  have hfirst : dropAddr c (s.freeQueue ++ [a]) = s.freeQueue ++ [a] := dropAddr_of_not_mem (by simp [hc, Ne.symm hac])
  have hsecond : dropAddr a (s.freeQueue ++ [c]) = s.freeQueue ++ [c] := dropAddr_of_not_mem (by simp [ha, hac])
  have hothers : dropAddr a [c] = [c] := dropAddr_of_not_mem (by simpa using hac)
  constructor
  · simp [State.joinedFree, State.joinFree, State.leaveQueues, he, ho, dropAddr_of_not_mem ha, hfirst,
      dropAddr_nil]
  · simp only [State.joinedFree, State.joinFree, State.leaveQueues, he, ho, dropAddr_of_not_mem hc,
      dropAddr_nil, List.contains_nil, Bool.false_and, insertBefore_false, hsecond, hothers,
      Bool.or_false]
    refine insertBefore_last (fun z hz => ?_) (by simp)
    have hzc : z ≠ c := by rintro rfl; exact hc hz
    simp [hzc]

/-- Head joins and tail joins do not affect each other (R20). -/
theorem State.joinedFree_head_tail (ha : a ∉ s.freeQueue) (hc : c ∉ s.freeQueue) {q : FreePlace}
    (hq : q = .holdExpiry ∨ q = .otherExpiry) :
    s.joinedFree .lapse a q c = a :: (s.freeQueue ++ [c]) ∧ s.joinedFree q c .lapse a = a :: (s.freeQueue ++ [c]) := by
  obtain ⟨hl, he, ho, -⟩ := s.boundary_first hbd
  have hfirst : dropAddr c (a :: s.freeQueue) = a :: s.freeQueue := dropAddr_of_not_mem (by simp [hc, Ne.symm hac])
  have hsecond : dropAddr a (s.freeQueue ++ [c]) = s.freeQueue ++ [c] := dropAddr_of_not_mem (by simp [ha, hac])
  rcases hq with rfl | rfl <;> constructor <;>
    simp [State.joinedFree, State.joinFree, State.leaveQueues, hl, he, ho, dropAddr_of_not_mem ha, dropAddr_of_not_mem hc,
      hfirst, hsecond, dropAddr_nil]

/-- Addresses that enter HELD at one boundary stand in ascending order (R22). -/
theorem State.joinedHold_eq (ha : a ∉ s.holdQueue) (hc : c ∉ s.holdQueue) (hlt : a < c) :
    s.joinedHold a c = s.holdQueue ++ [a, c] ∧ s.joinedHold c a = s.holdQueue ++ [a, c] := by
  obtain ⟨-, -, -, he, -⟩ := s.boundary_first hbd
  have hcases : ∀ {x y : Addr}, x ≠ y → x ∉ s.holdQueue → y ∉ s.holdQueue → s.joinedHold x y =
      insertBefore (fun z => [x].contains z && decide (y < z)) y (s.holdQueue ++ [x]) := by
    intro x y hxy hx hy
    have hfirst : dropAddr y (s.holdQueue ++ [x]) = s.holdQueue ++ [x] := dropAddr_of_not_mem (by simp [hy, Ne.symm hxy])
    have hentered : dropAddr y [x] = [x] := dropAddr_of_not_mem (by simpa using Ne.symm hxy)
    simp [State.joinedHold, State.joinHold, State.leaveQueues, he, dropAddr_of_not_mem hx, hfirst, hentered,
      dropAddr_nil]
  rw [hcases hac ha hc, hcases (Ne.symm hac) hc ha]
  exact insertBefore_ascending hc hlt

/-- Holds that expire join in their hold-queue order (R20). -/
theorem State.joinedFree_holds (ha : a ∉ s.freeQueue) (hc : c ∉ s.freeQueue) (hnodup : s.holdQueue.Nodup)
    {w y z : List Addr} (hq : s.holdQueue = w ++ [a] ++ y ++ [c] ++ z) :
    s.joinedFree .holdExpiry a .holdExpiry c = s.freeQueue ++ [a, c]
      ∧ s.joinedFree .holdExpiry c .holdExpiry a = s.freeQueue ++ [a, c] := by
  obtain ⟨-, he, ho, -, hholds⟩ := s.boundary_first hbd
  have hparts : a ∉ w ∧ a ∉ z ∧ c ∉ w ∧ c ∉ y := by
    rw [hq] at hnodup
    simp only [List.nodup_append, List.mem_append, List.mem_singleton] at hnodup
    grind
  obtain ⟨haw, haz, hcw, hcy⟩ := hparts
  have hfind : ∀ {x : Addr} {l m : List Addr}, x ∉ l →
      ((l ++ x :: m).dropWhile (fun y => decide (y ≠ x))).drop 1 = m := by
    intro x l m hx
    rw [List.dropWhile_append_of_pos (fun y hy => decide_eq_true (show y ≠ x from fun hyx => hx (hyx ▸ hy)))]
    simp
  have hbehind : ∀ bd : Boundary, bd.holds = s.holdQueue → bd.behind a c = true ∧ bd.behind c a = false := by
    intro bd hh
    constructor
    · rw [Boundary.behind, hh, hq, show w ++ [a] ++ y ++ [c] ++ z = w ++ a :: (y ++ c :: z) by simp, hfind haw]
      simp
    · rw [Boundary.behind, hh, hq, show w ++ [a] ++ y ++ [c] ++ z = (w ++ a :: y) ++ c :: z by simp,
        hfind (by simp [hcw, hcy, Ne.symm hac])]
      simpa using haz
  have hcases : ∀ {x y : Addr}, x ≠ y → x ∉ s.freeQueue → y ∉ s.freeQueue → ∃ bd : Boundary, bd.holds = s.holdQueue ∧
      s.joinedFree .holdExpiry x .holdExpiry y =
        insertBefore (fun z => [x].contains z && bd.behind y z) y (s.freeQueue ++ [x]) := by
    intro x y hxy hx hy
    have hfirst : dropAddr y (s.freeQueue ++ [x]) = s.freeQueue ++ [x] := dropAddr_of_not_mem (by simp [hy, Ne.symm hxy])
    have hexpired : dropAddr y [x] = [x] := dropAddr_of_not_mem (by simpa using Ne.symm hxy)
    refine ⟨((((s.leaveQueues x).joinFree .holdExpiry x).leaveQueues y)).boundary, hholds, ?_⟩
    simp [State.joinedFree, State.joinFree, State.leaveQueues, he, ho, dropAddr_of_not_mem hx, hfirst, hexpired,
      dropAddr_nil]
  obtain ⟨bd, hbd1, h1⟩ := hcases hac ha hc
  obtain ⟨be, hbe1, h2⟩ := hcases (Ne.symm hac) hc ha
  rw [h1, h2]
  constructor
  · rw [insertBefore_of_none]
    · simp
    · intro z _
      by_cases hza : z = a
      · simp [hza, (hbehind bd hbd1).2]
      · simp [hza]
  · refine insertBefore_last (fun z hz => ?_) (by simp [(hbehind be hbe1).1])
    have hzc : z ≠ c := by rintro rfl; exact hc hz
    simp [hzc]

end

/-! ### The expiries, by the place they take -/

/-- The row `i`, for the address `a` of byte `b`, ends what leads to FREE at the place `p` (R20). -/
def State.endsFree (s : State) (b : Byte) (a : Addr) (i : Instr) (p : FreePlace) : Prop :=
  (p = .lapse ∧ i = .offerLapse b ∧ s.lapses a .free)
    ∨ (p = .holdExpiry ∧ i = .holdExpiry b ∧ s.holdEnds a)
    ∨ (p = .otherExpiry ∧ s.endsTenure b a i ∧ s.policy.holdPeriod = 0)

/-- `t` is `s` after an expiry of `a`, whose queues are those of `u`. -/
structure State.Expired (s t u : State) (a : Addr) : Prop where
  free : t.freeQueue = u.freeQueue
  hold : t.holdQueue = u.holdQueue
  boundary : t.boundary = u.boundary
  others : ∀ c, c ≠ a → t.binding c = s.binding c
  policy : t.policy = s.policy
  phase : t.phase = s.phase
  reset : t.inReset = s.inReset

section
variable {s : State} {a c : Addr} {b d : Byte} {i j : Instr}

/-- A move to FREE, as its application leaves it. -/
theorem State.Expired.goFree (p : FreePlace) (a : Addr) (s : State) :
    s.Expired (commit s [] (s.goFree p a)) ((s.leaveQueues a).joinFree p a) a := by
  constructor
  case others => intro c hc; simp [hc]
  all_goals simp [State.goFree]
  all_goals cases p <;> rfl

/-- A move to HELD, as its application leaves it. -/
theorem State.Expired.enterHold (o : Option Holder) (a : Addr) (s : State) :
    s.Expired (commit s [] (s.enterHold o true a)) ((s.leaveQueues a).joinHold true a) a := by
  constructor
  case others => intro c hc; simp [hc]
  all_goals simp [State.enterHold]
  all_goals rfl

/-- What leads to HELD goes to HELD with identity at the boundary, or to FREE (R86, R65, R8). -/
theorem exec_endsTenure (hr : s.inReset = none) (hp : s.phase.isStopped = false) (hb : addrOf? b = some a)
    (h : s.endsTenure b a i) : ∃ o, exec i s = .next (commit s [] (s.goHeldWith o true a)) := by
  obtain ⟨hlapse, hlease, -⟩ := exec_expiries hr hp hb
  rcases h with ⟨rfl, o, g, r, q, hB, hd⟩ | ⟨rfl, o, r, hB, hd⟩
  · exact ⟨o, by rw [hlease, State.expireLease_due hB hd]; rfl⟩
  · exact ⟨o, by rw [hlapse, State.lapseOffer_due hB hd]; rfl⟩

theorem exec_endsFree {p : FreePlace} (hr : s.inReset = none) (hp : s.phase.isStopped = false) (hb : addrOf? b = some a)
    (h : s.endsFree b a i p) : ∃ t, exec i s = .next t ∧ s.Expired t ((s.leaveQueues a).joinFree p a) a := by
  obtain ⟨hlapse, -, hhold, -⟩ := exec_expiries hr hp hb
  rcases h with ⟨rfl, rfl, o, r, hB, hd⟩ | ⟨rfl, rfl, o, r, hB, hd⟩ | ⟨rfl, ht, hz⟩
  · exact ⟨_, by rw [hlapse, State.lapseOffer_due hB hd]; rfl, .goFree .lapse a s⟩
  · exact ⟨_, by rw [hhold, State.expireHold_due hB hd], .goFree .holdExpiry a s⟩
  · obtain ⟨o, he⟩ := exec_endsTenure hr hp hb ht
    exact ⟨_, by rw [he, State.goHeldWith, if_pos hz]; rfl, .goFree .otherExpiry a s⟩

theorem exec_endsHold (hr : s.inReset = none) (hp : s.phase.isStopped = false) (hb : addrOf? b = some a)
    (h : s.endsTenure b a i) (hz : s.policy.holdPeriod ≠ 0) :
    ∃ t, exec i s = .next t ∧ s.Expired t ((s.leaveQueues a).joinHold true a) a := by
  obtain ⟨o, he⟩ := exec_endsTenure hr hp hb h
  exact ⟨_, by rw [he, State.goHeldWith, if_neg hz], .enterHold (some o) a s⟩

/-- An expiry of one address leaves what may expire at another. -/
theorem State.Expired.endsTenure {t u : State} (h : s.Expired t u a) (hca : c ≠ a) (hc : s.endsTenure d c j) :
    t.endsTenure d c j := by
  rcases hc with ⟨hj, o, g, r, q, hB, hd⟩ | ⟨hj, o, r, hB, hd⟩
  · exact .inl ⟨hj, o, g, r, q, (h.others c hca).trans hB, hd⟩
  · exact .inr ⟨hj, o, r, (h.others c hca).trans hB, hd⟩

theorem State.Expired.endsFree {t u : State} {q : FreePlace} (h : s.Expired t u a) (hca : c ≠ a)
    (hc : s.endsFree d c j q) : t.endsFree d c j q := by
  rcases hc with ⟨hq, hj, o, r, hB, hd⟩ | ⟨hq, hj, o, r, hB, hd⟩ | ⟨hq, ht, hz⟩
  · exact .inl ⟨hq, hj, o, r, (h.others c hca).trans hB, hd⟩
  · exact .inr (.inl ⟨hq, hj, o, r, (h.others c hca).trans hB, hd⟩)
  · exact .inr (.inr ⟨hq, h.endsTenure hca ht, by rw [h.policy]; exact hz⟩)

/-- Joining depends on the queues and the bookkeeping alone. -/
theorem State.joinFree_congr {t u : State} (hf : t.freeQueue = u.freeQueue) (hb : t.boundary = u.boundary)
    (c : Addr) (q : FreePlace) : ((t.leaveQueues c).joinFree q c).freeQueue = ((u.leaveQueues c).joinFree q c).freeQueue := by
  cases q <;> simp [State.joinFree, State.leaveQueues, hf, hb]

theorem State.joinHold_congr {t u : State} (hh : t.holdQueue = u.holdQueue) (hb : t.boundary = u.boundary) (c : Addr) :
    ((t.leaveQueues c).joinHold true c).holdQueue = ((u.leaveQueues c).joinHold true c).holdQueue := by
  simp [State.joinHold, State.leaveQueues, hh, hb]

/-- Two expiries that lead to FREE, one after the other. -/
theorem runs_endsFree {p q : FreePlace} (hr : s.inReset = none) (hp : s.phase.isStopped = false) (hb : addrOf? b = some a)
    (hd : addrOf? d = some c) (hac : a ≠ c) (hi : s.endsFree b a i p) (hj : s.endsFree d c j q) :
    ∃ u, runs [i, j] s u ∧ u.freeQueue = s.joinedFree p a q c := by
  obtain ⟨t, ht, hst⟩ := exec_endsFree hr hp hb hi
  obtain ⟨u, hu, htu⟩ := exec_endsFree (hst.reset.trans hr) (by rw [hst.phase]; exact hp) hd
    (hst.endsFree (Ne.symm hac) hj)
  exact ⟨u, ⟨t, ht, u, hu, rfl⟩, htu.free.trans (State.joinFree_congr hst.free hst.boundary c q)⟩

/-- Two expiries that lead to HELD, one after the other. -/
theorem runs_endsHold (hr : s.inReset = none) (hp : s.phase.isStopped = false) (hb : addrOf? b = some a)
    (hd : addrOf? d = some c) (hac : a ≠ c) (hi : s.endsTenure b a i) (hj : s.endsTenure d c j)
    (hz : s.policy.holdPeriod ≠ 0) : ∃ u, runs [i, j] s u ∧ u.holdQueue = s.joinedHold a c := by
  obtain ⟨t, ht, hst⟩ := exec_endsHold hr hp hb hi hz
  obtain ⟨u, hu, htu⟩ := exec_endsHold (hst.reset.trans hr) (by rw [hst.phase]; exact hp) hd
    (hst.endsTenure (Ne.symm hac) hj) (by rw [hst.policy]; exact hz)
  exact ⟨u, ⟨t, ht, u, hu, rfl⟩, htu.hold.trans (State.joinHold_congr hst.hold hst.boundary c)⟩

/-- What is about to expire into a queue does not stand in it. -/
theorem State.endsTenure.not_queued (hq : s.QueuesAgree) (h : s.endsTenure b a i) :
    a ∉ s.freeQueue ∧ a ∉ s.holdQueue := by
  obtain ⟨hf, hh⟩ := hq.state_of_mem (a := a)
  rcases h with ⟨-, o, g, r, q, hB, -⟩ | ⟨-, o, r, hB, -⟩ <;> rw [hB] at hf hh <;>
    exact ⟨fun hm => (nomatch hf hm), fun hm => (nomatch hh hm)⟩

theorem State.endsFree.not_queued {p : FreePlace} (hq : s.QueuesAgree) (h : s.endsFree b a i p) : a ∉ s.freeQueue := by
  obtain ⟨hf, -⟩ := hq.state_of_mem (a := a)
  rcases h with ⟨-, -, o, r, hB, -⟩ | ⟨-, -, o, r, hB, -⟩ | ⟨-, ht, -⟩
  · rw [hB] at hf; exact fun hm => (nomatch hf hm)
  · rw [hB] at hf; exact fun hm => (nomatch hf hm)
  · exact (ht.not_queued hq).1

/-- No address stands twice in the hold queue (R19). -/
theorem State.QueuesAgree.nodup_hold (hq : s.QueuesAgree) : s.holdQueue.Nodup := by
  rw [List.nodup_iff_count]
  intro a
  rw [(hq a).2]
  split <;> omega

end

/-- Settles O27: the queues after two expiries are those of two joins, which come to the same in either order. -/
theorem expiriesOfOneBoundaryTakeTheirPlaces : Obligations.ExpiriesOfOneBoundaryTakeTheirPlaces := by
  intro s b d a c hr hp hq hb hd hac hbd bothWays
  have hfree : ∀ {i j : Instr} {p q : FreePlace} {l : List Addr}, s.endsFree b a i p → s.endsFree d c j q →
      (a ∉ s.freeQueue → c ∉ s.freeQueue → s.joinedFree p a q c = l ∧ s.joinedFree q c p a = l) →
      bothWays i j (fun u => u.freeQueue = l) := by
    intro i j p q l hi hj hl
    obtain ⟨h1, h2⟩ := hl (hi.not_queued hq) (hj.not_queued hq)
    obtain ⟨u, hu, hul⟩ := runs_endsFree hr hp hb hd hac hi hj
    obtain ⟨v, hv, hvl⟩ := runs_endsFree hr hp hd hb (Ne.symm hac) hj hi
    exact ⟨⟨u, hu, hul.trans h1⟩, v, hv, hvl.trans h2⟩
  refine ⟨fun hlt ha hc => ?_, fun i j hlt ha hc => ⟨fun hz => ?_, fun hz => ?_⟩, fun ha hc w y z hw => ?_,
    fun j ha hc hz => ?_, fun ha => ⟨fun hc => ?_, fun j hc hz => ?_⟩⟩
  · exact hfree (.inl ⟨rfl, rfl, ha⟩) (.inl ⟨rfl, rfl, hc⟩) (fun h1 h2 => State.joinedFree_lapses hbd hac h1 h2 hlt)
  · obtain ⟨h1, h2⟩ := State.joinedHold_eq hbd hac (ha.not_queued hq).2 (hc.not_queued hq).2 hlt
    obtain ⟨u, hu, hul⟩ := runs_endsHold hr hp hb hd hac ha hc hz
    obtain ⟨v, hv, hvl⟩ := runs_endsHold hr hp hd hb (Ne.symm hac) hc ha hz
    exact ⟨⟨u, hu, hul.trans h1⟩, v, hv, hvl.trans h2⟩
  · exact hfree (.inr (.inr ⟨rfl, ha, hz⟩)) (.inr (.inr ⟨rfl, hc, hz⟩))
      (fun h1 h2 => State.joinedFree_others hbd hac h1 h2 hlt)
  · exact hfree (.inr (.inl ⟨rfl, rfl, ha⟩)) (.inr (.inl ⟨rfl, rfl, hc⟩))
      (fun h1 h2 => State.joinedFree_holds hbd hac h1 h2 hq.nodup_hold hw)
  · exact hfree (.inr (.inl ⟨rfl, rfl, ha⟩)) (.inr (.inr ⟨rfl, hc, hz⟩))
      (fun h1 h2 => State.joinedFree_hold_other hbd hac h1 h2)
  · exact hfree (.inl ⟨rfl, rfl, ha⟩) (.inr (.inl ⟨rfl, rfl, hc⟩))
      (fun h1 h2 => State.joinedFree_head_tail hbd hac h1 h2 (.inl rfl))
  · exact hfree (.inl ⟨rfl, rfl, ha⟩) (.inr (.inr ⟨rfl, hc, hz⟩))
      (fun h1 h2 => State.joinedFree_head_tail hbd hac h1 h2 (.inr rfl))

end Sys2Proof.Machine
end

section
/-! PROOFS. The reception of a frame: its characters, its end, and the frame it comes to (R157 to R163, R195, R196). -/

namespace Sys2Proof.Machine

section
variable {s : State} {seg : Segment} {c : Controller} {ch : LineChar} {r : Reception}

/-! ### Characters -/

theorem State.onLine_running (hr : s.inReset = none) (act : Controller → Controller) :
    s.onLine seg act = s.setLine seg (act (s.line seg)) := by
  simp [State.onLine, hr]

theorem exec_character (hr : s.inReset = none) :
    exec (.characterReceived seg ch) s = .next (s.setLine seg ((s.line seg).receive ch)) :=
  congrArg _ (State.onLine_running hr _)

/-- The receiver takes no character (R157). -/
theorem Controller.receive_deaf (h : c.line = .disabled ∨ ∃ k, c.line = .transmitting k) : c.receive ch = c := by
  rcases h with h | ⟨k, h⟩ <;> simp [Controller.receive, h]

theorem Controller.receive_first (h : c.line = .idle ∨ c.line = .waitGap ∨ c.line = .backoff) :
    c.receive ch = { c with line := .receiving (c.beginFrame ch), idle := 0 } := by
  rcases h with h | h | h <;> simp [Controller.receive, h]

theorem Controller.receive_further (h : c.line = .receiving r) :
    c.receive ch = { c with line := .receiving (r.extend c.format ch), idle := 0 } := by
  simp [Controller.receive, h]

/-- The first character settles how the frame is followed (R159, R160). -/
theorem Controller.beginFrame_eq (c : Controller) (ch : LineChar) :
    (inError c.format ch = true → c.beginFrame ch = ⟨.unreadable, [], 1, !ch.stop, parityError c.format ch⟩)
      ∧ (inError c.format ch = false → ch.data ≠ 0xFE → c.beginFrame ch = ⟨.traffic, [], 1, false, false⟩)
      ∧ (inError c.format ch = false → ch.data = 0xFE → c.ready.length < 2 →
          c.beginFrame ch = ⟨.stored, [0xFE], 1, false, false⟩)
      ∧ (inError c.format ch = false → ch.data = 0xFE → 2 ≤ c.ready.length →
          c.beginFrame ch = ⟨.overrun, [], 1, false, false⟩) := by
  unfold Controller.beginFrame
  dsimp only
  rw [show (framingError ch || parityError c.format ch) = inError c.format ch from rfl]
  refine ⟨fun h => ?_, fun h hd => ?_, fun h hd hr => ?_, fun h hd hr => ?_⟩
  · simp [h, framingError]
  · rw [if_neg (by simp [h]), if_neg (show ¬ch.data = directoryAddress from hd)]
  · simp [h, directoryAddress, hd, Config.receiveSlots, hr]
  · simp [h, directoryAddress, hd, Config.receiveSlots, Nat.not_lt.mpr hr]

/-- A further character (R157, R158). -/
theorem Reception.extend_eq (f : Format) (ch : LineChar) (r : Reception) :
    (r.following ≠ .stored → r.extend f ch = { r with count := r.count + 1 })
      ∧ (r.following = .stored →
        let errors := { r with
          count := r.count + 1, framing := r.framing || !ch.stop, parity := r.parity || parityError f ch }
        (r.stored.length < 47 → r.extend f ch = { errors with stored := r.stored ++ [ch.data] })
          ∧ (47 ≤ r.stored.length → r.extend f ch = errors)) := by
  unfold Reception.extend
  refine ⟨fun h => ?_, fun h => ⟨fun hl => ?_, fun hl => ?_⟩⟩
  · cases hf : r.following <;> simp_all
  · simp [h, Config.storedCharacters, hl, framingError]
  · simp [h, Config.storedCharacters, Nat.not_lt.mpr hl, framingError]

end

/-- Settles O30: by what the line does when the character ends. -/
theorem charactersBeginAndExtendFrames : Obligations.CharactersBeginAndExtendFrames := by
  intro seg ch s hr c becomes
  obtain ⟨herror, htraffic, hstored, hoverrun⟩ := Controller.beginFrame_eq c ch
  refine ⟨fun h => ?_, fun h => ?_, fun r h => ?_⟩
  · rw [exec_character hr, Controller.receive_deaf h, State.setLine_line]
  · have hfirst : ∀ r, c.beginFrame ch = r → becomes r := by
      intro r hb
      show exec _ _ = _
      rw [exec_character hr, Controller.receive_first h, hb]
    exact ⟨fun he => hfirst _ (herror he), fun he hd => hfirst _ (htraffic he hd),
      fun he hd hl => hfirst _ (hstored he hd hl), fun he hd hl => hfirst _ (hoverrun he hd hl)⟩
  · have hfurther : ∀ q, r.extend c.format ch = q → becomes q := by
      intro q hq
      show exec _ _ = _
      rw [exec_character hr, Controller.receive_further h, hq]
    obtain ⟨hother, hstored⟩ := Reception.extend_eq c.format ch r
    refine ⟨fun hf => hfurther _ (hother hf), fun hf => ?_⟩
    obtain ⟨hkept, hfull⟩ := hstored hf
    exact ⟨fun hl => hfurther _ (hkept hl), fun hl => hfurther _ (hfull hl)⟩

/-! ### The checks of a stored frame (R161) -/

section
variable {s : State} {seg : Segment} {c : Controller} {r : Reception}

theorem checkFrame_characters (h : r.framing = true ∨ r.parity = true) : checkFrame r = .bad (characterFlags r) := by
  simp [checkFrame, h]

theorem checkFrame_length (hf : r.framing = false) (hp : r.parity = false) (h : lengthConsistent r.count r.stored = false) :
    checkFrame r = .bad [.length] := by
  simp [checkFrame, hf, hp, h]

/-- A frame of consistent length is good when its CRC and its source are. -/
theorem checkFrame_bytes {f : Frame} {check : List Byte} (hfr : r.framing = false) (hp : r.parity = false)
    (hs : r.stored = f.header ++ f.body ++ check) (hb : f.body.length ≤ 40)
    (hn : r.count = 7 + f.body.length) :
    checkFrame r =
      if check ≠ crc16Bytes (f.header ++ f.body) then .bad [.crc]
      else if !sourceOk f.source then .bad [.address] else .good f := by
  have hlength : (r.stored.getD 4 0).toNat = f.body.length := by
    rw [hs]
    simp only [Frame.header, List.cons_append, List.nil_append, List.getD_cons_succ, List.getD_cons_zero,
      BitVec.toNat_ofNat]
    omega
  have hconsistent : lengthConsistent r.count r.stored = true := by
    rw [lengthConsistent, hlength, hn]
    exact decide_eq_true (by omega)
  have hheader : (f.header ++ f.body).length = 5 + f.body.length := by simp [Frame.header]; omega
  have htake : r.stored.take (5 + f.body.length) = f.header ++ f.body := by
    rw [hs, ← hheader, List.take_left]
  have hdrop : r.stored.drop (5 + f.body.length) = check := by
    rw [hs, ← hheader, List.drop_left]
  unfold checkFrame
  simp only [hfr, hp, hconsistent, hlength, htake, hdrop, Bool.or_self, Bool.false_eq_true, if_false, Bool.not_true]
  rw [hs]
  rfl

/-! ### The end of a frame (R158) -/

theorem exec_frameEnd (hr : s.inReset = none) : exec (.frameEnd seg) s = .next (s.frameEnd seg) := by
  show Host.Outcome.next (if s.inReset.isSome then s else s.frameEnd seg) = _
  simp [hr]

theorem State.frameEnd_eq (hl : (s.line seg).line = .receiving r) :
    s.frameEnd seg =
      if r.flagged then (s.setLine seg ((s.line seg).decideFrame r).leaveReceiving).setFactor (segmentErrorFactor seg)
      else s.setLine seg ((s.line seg).decideFrame r).leaveReceiving := by
  simp only [State.frameEnd, hl]

/-- The frame ends with flags (R163). -/
theorem State.frameEnd_flags {causes : List SegmentFlag} (hl : (s.line seg).line = .receiving r)
    (hd : (s.line seg).decideFrame r = { s.line seg with flags := raiseFlags causes (s.line seg).flags })
    (hf : r.flagged = true) :
    s.frameEnd seg = (s.setLine seg { (s.line seg).frameOver with flags := raiseFlags causes (s.line seg).flags }).setFactor
      (segmentErrorFactor seg) := by
  have hover : Controller.leaveReceiving { s.line seg with flags := raiseFlags causes (s.line seg).flags } =
      { (s.line seg).frameOver with flags := raiseFlags causes (s.line seg).flags } := by
    rw [← Controller.frameOver_eq]; rfl
  rw [State.frameEnd_eq hl, if_pos hf, hd, hover]

/-- The frame ends as a good one (R161). -/
theorem State.frameEnd_good {f : Frame} (hl : (s.line seg).line = .receiving r) (hf : r.following = .stored)
    (hg : checkFrame r = .good f) :
    s.frameEnd seg = s.setLine seg { (s.line seg).frameOver with ready := (s.line seg).ready ++ [f] } := by
  have hover : Controller.leaveReceiving { s.line seg with ready := (s.line seg).ready ++ [f] } =
      { (s.line seg).frameOver with ready := (s.line seg).ready ++ [f] } := by
    rw [← Controller.frameOver_eq]; rfl
  have hdecide : (s.line seg).decideFrame r = { s.line seg with ready := (s.line seg).ready ++ [f] } := by
    simp [Controller.decideFrame, hf, hg]
  rw [State.frameEnd_eq hl, if_neg (by simp [Reception.flagged, hf, hg]), hdecide, hover]

/-- The frame ends with the flags of the first check that fails (R161, R163). -/
theorem State.frameEnd_bad {causes : List SegmentFlag} (hl : (s.line seg).line = .receiving r) (hf : r.following = .stored)
    (hb : checkFrame r = .bad causes) :
    s.frameEnd seg = (s.setLine seg { (s.line seg).frameOver with flags := raiseFlags causes (s.line seg).flags }).setFactor
      (segmentErrorFactor seg) :=
  State.frameEnd_flags hl (by simp [Controller.decideFrame, hf, hb]) (by simp [Reception.flagged, hf, hb])

end

/-- Settles O31: by the checks of a received frame, in their order. -/
theorem frameEndsDecideFrames : Obligations.FrameEndsDecideFrames := by
  intro seg s hr c flags
  have hexec : exec (.frameEnd seg) s = .next (s.frameEnd seg) := exec_frameEnd hr
  refine ⟨fun h => ?_, fun r hl => ⟨fun hf => ?_, fun hf => ?_, fun hf => ?_, fun hf => ⟨fun he => ?_, fun hfr hp =>
    ⟨fun hn => ?_, fun n hn hbad => ?_, fun f check hs _ hb hn => ?_⟩⟩⟩⟩
  · rw [hexec, State.frameEnd]
    split
    · rename_i r hr; exact absurd hr (h r)
    all_goals rfl
  · have hdecide : c.decideFrame r = c := by simp [Controller.decideFrame, hf]
    rw [hexec, State.frameEnd_eq hl, if_neg (by simp [Reception.flagged, hf]), hdecide, Controller.frameOver_eq]
  · exact hexec.trans (congrArg _ (State.frameEnd_flags hl (by simp [Controller.decideFrame, hf])
      (by simp [Reception.flagged, hf])))
  · exact hexec.trans (congrArg _ (State.frameEnd_flags hl (by simp [Controller.decideFrame, hf])
      (by simp [Reception.flagged, hf])))
  · exact hexec.trans (congrArg _ (State.frameEnd_bad hl hf (checkFrame_characters he)))
  · refine hexec.trans (congrArg _ (State.frameEnd_bad hl hf (checkFrame_length hfr hp (decide_eq_false ?_))))
    omega
  · have hget : r.stored.getD 4 0 = n := by simp [List.getD, hn]
    refine hexec.trans (congrArg _ (State.frameEnd_bad hl hf (checkFrame_length hfr hp (decide_eq_false ?_))))
    rw [hget]
    omega
  · have hcheck := checkFrame_bytes hfr hp hs hb hn
    refine ⟨fun hcrc => ?_, fun hcrc hsource => ?_, fun hcrc hsource => ?_⟩
    · rw [if_pos hcrc] at hcheck
      exact hexec.trans (congrArg _ (State.frameEnd_bad hl hf hcheck))
    · rw [if_neg (by simp [hcrc]), if_pos (by simp [sourceOk, hsource])] at hcheck
      exact hexec.trans (congrArg _ (State.frameEnd_bad hl hf hcheck))
    · rw [if_neg (by simp [hcrc]), if_neg (by simp [sourceOk, hsource])] at hcheck
      exact hexec.trans (congrArg _ (State.frameEnd_good hl hf hcheck))

/-! ### The whole frame (R195, R196) -/

/-- A stored frame received without error so far. -/
def received (bytes : List Byte) : Reception := ⟨.stored, bytes, bytes.length, false, false⟩

/-- The controller while it receives such a frame. -/
def Controller.storing (bytes : List Byte) (c : Controller) : Controller :=
  { c with line := .receiving (received bytes), idle := 0 }

theorem extend_received {bytes : List Byte} {f : Format} {ch : LineChar} (he : inError f ch = false)
    (hl : bytes.length < 47) : (received bytes).extend f ch = received (bytes ++ [ch.data]) := by
  obtain ⟨hstop, hparity⟩ : framingError ch = false ∧ parityError f ch = false := by simpa [inError] using he
  simp [Reception.extend, received, Config.storedCharacters, hl, hstop, hparity]

/-- Characters without error are stored one after the other (R157). -/
theorem runs_storing {s : State} {seg : Segment} (hr : s.inReset = none) (chars : List LineChar) (bytes : List Byte)
    (he : ∀ ch ∈ chars, inError (s.line seg).format ch = false) (hl : bytes.length + chars.length ≤ 47) :
    runs (chars.map (Instr.characterReceived seg)) (s.setLine seg ((s.line seg).storing bytes))
      (s.setLine seg ((s.line seg).storing (bytes ++ chars.map (·.data)))) := by
  induction chars generalizing bytes with
  | nil => simp [runs]
  | cons ch chars ih =>
    rw [List.length_cons] at hl
    refine ⟨_, exec_character (by simpa using hr), ?_⟩
    have hextend := extend_received (bytes := bytes) (he ch (by simp)) (by omega)
    rw [State.line_setLine_self, State.setLine_setLine, Controller.receive_further (r := received bytes) rfl,
      show ((s.line seg).storing bytes).format = (s.line seg).format from rfl, hextend]
    have hrest := ih (bytes ++ [ch.data]) (fun d hd => he d (by simp [hd])) (by simp; omega)
    rw [List.append_assoc] at hrest
    exact hrest

/-- Settles O32: the first character begins a stored frame, the others are stored, and the frame end finds a good frame. -/
theorem receptionRecoversTheFrame : Obligations.ReceptionRecoversTheFrame := by
  intro seg s f chars hr hline hready hdest hsource hbody hdata herror
  have hbytes : f.bytes.length = 7 + f.body.length := by
    simp [Frame.bytes, Frame.header, crc16Bytes]
    omega
  match chars, hdata, herror with
  | [], hdata, _ =>
    rw [← hdata, List.map_nil, List.length_nil] at hbytes
    omega
  | ch :: chars, hdata, herror =>
    rw [List.map_cons] at hdata
    have hcount : chars.length + 1 = 7 + f.body.length := by rw [← hbytes, ← hdata]; simp
    have hfirst : ch.data = 0xFE := by
      rw [← hdest]
      exact (List.cons.inj (hdata.trans (show f.bytes = f.destination :: _ from rfl))).1
    have hbegin : (s.line seg).receive ch = (s.line seg).storing [ch.data] := by
      rw [Controller.receive_first hline, ((s.line seg).beginFrame_eq ch).2.2.1 (herror ch (by simp)) hfirst hready, hfirst]
      rfl
    have hstored := runs_storing hr chars [ch.data] (fun d hd => herror d (by simp [hd])) (by simp; omega)
    rw [List.singleton_append, hdata] at hstored
    have hgood : checkFrame (received f.bytes) = .good f := by
      rw [checkFrame_bytes (r := received f.bytes) (check := crc16Bytes (f.header ++ f.body)) rfl rfl rfl hbody hbytes,
        if_neg (by simp), if_neg (by simp [sourceOk, hsource])]
    have hend : (s.setLine seg ((s.line seg).storing f.bytes)).frameEnd seg =
        s.setLine seg { (s.line seg).frameOver with ready := (s.line seg).ready ++ [f] } := by
      rw [State.frameEnd_good (r := received f.bytes) (f := f) (by rw [State.line_setLine_self]; rfl) rfl hgood,
        State.line_setLine_self, State.setLine_setLine]
      rfl
    refine ⟨_, ⟨_, exec_character hr, runs_append.mpr ⟨_, ?_, _, exec_frameEnd (by simpa using hr), rfl⟩⟩, hend⟩
    rw [hbegin]
    exact hstored

end Sys2Proof.Machine
end

section
/-! PROOFS. Transmissions, collisions and the transmit queues (R47 to R52, R133, R164 to R167). -/

namespace Sys2Proof.Machine

section
variable {s : State} {seg : Segment} {c : Controller}

/-! ### The events of a line that do not touch the queue -/

theorem exec_lineEvents (hr : s.inReset = none) :
    exec (.transmissionStart seg) s = .next (s.setLine seg (s.line seg).gapOver)
      ∧ exec (.backoffExpiry seg) s = .next (s.setLine seg (s.line seg).backoffOver)
      ∧ exec (.headFrameCutOff seg) s = .next (s.setLine seg (s.line seg).cutOffDone) :=
  ⟨congrArg _ (State.onLine_running hr _), congrArg _ (State.onLine_running hr _), congrArg _ (State.onLine_running hr _)⟩

/-- When the head frame starts to go out (R165). -/
theorem Controller.gapOver_eq (c : Controller) :
    (c.line = .waitGap → c.gapOver = c.startSending)
      ∧ (c.line = .idle → c.queue ≠ [] → c.gapOver = c.startSending)
      ∧ (c.line = .idle → c.queue = [] → c.gapOver = { c with idle := max c.idle 4 })
      ∧ (c.line ≠ .waitGap → c.line ≠ .idle → c.gapOver = c) := by
  unfold Controller.gapOver
  refine ⟨fun h => by rw [h], fun h hq => ?_, fun h hq => ?_, fun h1 h2 => ?_⟩
  · rw [h]; simp [hq]
  · rw [h]; simp [hq, Config.transmitIdle]
  · split
    · rename_i h; exact absurd h h1
    · rename_i h; exact absurd h h2
    all_goals rfl

theorem Controller.backoffOver_eq (c : Controller) :
    (c.line = .backoff → c.backoffOver = c.startSending) ∧ (c.line ≠ .backoff → c.backoffOver = c) := by
  unfold Controller.backoffOver
  refine ⟨fun h => by rw [h], fun h => ?_⟩
  split
  · rename_i hl; exact absurd hl h
  all_goals rfl

theorem Controller.cutOffDone_eq (c : Controller) :
    (c.line = .transmitting true → c.cutOffDone = { c with line := waitState c.queue, idle := 0 })
      ∧ (c.line ≠ .transmitting true → c.cutOffDone = c) := by
  unfold Controller.cutOffDone
  refine ⟨fun h => by rw [h, restState_eq], fun h => ?_⟩
  split
  · rename_i hl; exact absurd hl h
  all_goals rfl

/-! ### The head frame -/

/-- The state that a head frame leaves behind, its send end reported (R133, R166, R167). -/
def State.headEnded (seg : Segment) (f : QueuedFrame) (q : List QueuedFrame) (s : State) : State :=
  (s.setLine seg ((s.line seg).headGone q)).reportSendEnd seg f

theorem exec_frameSent {f : QueuedFrame} {q : List QueuedFrame} (hr : s.inReset = none)
    (hl : (s.line seg).line = .transmitting false) (hq : (s.line seg).queue = f :: q) :
    exec (.frameSent seg) s = .next (s.headEnded seg f q) := by
  show Host.Outcome.next (if s.inReset.isSome then s else s.frameSent seg) = _
  simp [hr, State.frameSent, hl, hq, State.headEnded]

/-- What a character read back comes to (R166, R167). -/
theorem exec_collision {f : QueuedFrame} {q : List QueuedFrame} {p : Nat} {ch : LineChar} {sent : Byte}
    (hr : s.inReset = none) (hl : (s.line seg).line = .transmitting false) (hq : (s.line seg).queue = f :: q)
    (hp : f.frame.bytes[p]? = some sent) :
    exec (.collision seg p ch) s =
      .next (if readBackFails (s.line seg).format sent ch then s.collide seg f q else s) := by
  show Host.Outcome.next (if s.inReset.isSome then s else s.readBack seg p ch) = _
  simp [hr, State.readBack, hl, hq, hp]

theorem readBackFails_iff {f : Format} {sent : Byte} {ch : LineChar} :
    readBackFails f sent ch = true ↔ inError f ch = true ∨ ch.data ≠ sent := by
  simp [readBackFails, inError]

/-- The head gone, what becomes of the listing that awaits its send end (R133). -/
theorem State.headEnded_eq (f : QueuedFrame) (q : List QueuedFrame) :
    let gone := s.setLine seg { s.line seg with queue := q, line := waitState q, collisions := 0, idle := 0 }
    (f.cls ≠ .listing true → s.headEnded seg f q = gone)
      ∧ (s.listing seg = none → s.headEnded seg f q = gone)
      ∧ ∀ l, f.cls = .listing true → s.listing seg = some l →
          s.headEnded seg f q = gone.setListing seg (some { l with timer := some 250 }) := by
  intro gone
  have hgone : s.setLine seg ((s.line seg).headGone q) = gone := by rw [Controller.headGone, restState_eq]
  have hlisting : gone.listing seg = s.listing seg := by simp [gone]
  rw [State.headEnded, hgone]
  refine ⟨fun h => ?_, fun h => ?_, fun l h hl => ?_⟩
  · simp [State.reportSendEnd, QueuedFrame.isAwaited, h]
  · simp [State.reportSendEnd, State.sendEnd, hlisting, h]
  · simp only [State.reportSendEnd, QueuedFrame.isAwaited, h, State.sendEnd, hlisting, hl, decide_true, if_true]
    rfl

/-! ### Joining a queue -/

theorem Controller.joinQueue_eq (c : Controller) (q : QueuedFrame) :
    (c.line ≠ .idle → c.joinQueue q = { c with queue := c.queue ++ [q] })
      ∧ (c.line = .idle → c.idle < 4 → c.joinQueue q = { c with queue := c.queue ++ [q], line := .waitGap })
      ∧ (c.line = .idle → 4 ≤ c.idle →
        c.joinQueue q = { c with queue := c.queue ++ [q], line := .transmitting false, idle := 0 }) := by
  unfold Controller.joinQueue
  refine ⟨fun h => ?_, fun h hi => ?_, fun h hi => ?_⟩
  · split
    · rename_i hl; exact absurd hl h
    all_goals rfl
  · rw [h]; simp [Config.transmitIdle, Nat.not_le.mpr hi]
  · rw [h]; simp [Config.transmitIdle, hi]

/-! ### Handing over a reply or a notice (R50 to R52) -/

theorem QueuedFrame.isNotice_iff {q : QueuedFrame} : q.isNotice = true ↔ q.cls = .notice := by simp [QueuedFrame.isNotice]

theorem State.handReply_room {f : Frame} (hd : (s.line seg).line ≠ .disabled) (hq : (s.line seg).queue.length < 4) :
    s.handReply seg f = s.setLine seg ((s.line seg).joinQueue ⟨.reply, f⟩)
      ∧ s.handNotice seg f = s.setLine seg ((s.line seg).joinQueue ⟨.notice, f⟩) := by
  simp [State.handReply, State.handNotice, LineState.isDisabled_eq_false hd, Config.transmitPlaces, hq]

theorem State.handReply_disabled {f : Frame} (hd : (s.line seg).line = .disabled) : s.handReply seg f = s := by
  simp [State.handReply, hd, LineState.isDisabled]

theorem State.handNotice_dropped {f : Frame} (h : (s.line seg).line = .disabled ∨ 4 ≤ (s.line seg).queue.length) :
    s.handNotice seg f = s.setFactor .noticeDropped := by
  rcases h with h | h
  · simp [State.handNotice, h, LineState.isDisabled]
  · simp [State.handNotice, Config.transmitPlaces, Nat.not_lt.mpr h]

theorem State.handReply_full {f : Frame} (h : 4 ≤ (s.line seg).queue.length)
    (hn : ∀ q ∈ (s.line seg).queue, q.cls ≠ .notice) : s.handReply seg f = s := by
  have hnone : (s.line seg).queue.any QueuedFrame.isNotice = false := by
    simpa [QueuedFrame.isNotice] using hn
  simp [State.handReply, Config.transmitPlaces, Nat.not_lt.mpr h, hnone]

/-- The oldest notice makes room for the reply (R50, R164). -/
theorem State.handReply_instead {f : Frame} {front back : List QueuedFrame} {n : QueuedFrame} {d : Controller}
    (hd : (s.line seg).line ≠ .disabled) (h : 4 ≤ (s.line seg).queue.length)
    (hq : (s.line seg).queue = front ++ n :: back) (hn : n.cls = .notice)
    (hremoved : (s.line seg).removeNotice = { d with queue := front ++ back }) (hidle : d.line ≠ .idle) :
    s.handReply seg f = (s.setLine seg { d with queue := front ++ back ++ [⟨.reply, f⟩] }).setFactor .noticeDropped := by
  have hany : (s.line seg).queue.any QueuedFrame.isNotice = true := by
    rw [hq]; simp [QueuedFrame.isNotice_iff.mpr hn]
  have hjoin := (Controller.joinQueue_eq { d with queue := front ++ back } ⟨.reply, f⟩).1 hidle
  simp only [State.handReply, LineState.isDisabled_eq_false hd, Config.transmitPlaces, Nat.not_lt.mpr h, hany, hremoved, hjoin,
    Bool.false_eq_true, if_false, if_true]

/-- A notice at the head is removed (R164). -/
theorem Controller.removeNotice_head {n : QueuedFrame} {back : List QueuedFrame} (hq : c.queue = n :: back)
    (hn : n.cls = .notice) :
    (∀ k, c.line = .transmitting k → c.removeNotice = { c with queue := back, collisions := 0, line := .transmitting true })
      ∧ (c.line = .waitGap ∨ c.line = .backoff →
          c.removeNotice = { c with queue := back, collisions := 0, line := restState back })
      ∧ (∀ r, c.line = .receiving r → c.removeNotice = { c with queue := back, collisions := 0 }) := by
  have hnotice := QueuedFrame.isNotice_iff.mpr hn
  refine ⟨fun k h => ?_, fun h => ?_, fun r h => ?_⟩
  · simp [Controller.removeNotice, hq, hnotice, h]
  · rcases h with h | h <;> simp [Controller.removeNotice, hq, hnotice, h]
  · simp [Controller.removeNotice, hq, hnotice, h]

/-- A notice for all goes to each segment that is enabled (R49). -/
theorem State.broadcast_eq (f : Frame) (s : State) :
    s.broadcast f =
      (let t := if s.lineA.line = .disabled then s else s.handNotice .a f
       if s.lineB.line = .disabled then t else t.handNotice .b f) := by
  have henabled : ∀ (t : State) (k : Segment), t.enabled k = true ↔ (t.line k).line ≠ .disabled := by
    intro t k
    rw [State.enabled, Bool.not_eq_true', ← Bool.not_eq_true, LineState.isDisabled_iff]
  unfold State.broadcast
  dsimp only
  by_cases ha : s.lineA.line = .disabled <;> by_cases hb : s.lineB.line = .disabled <;>
    simp [henabled, State.line, ha, hb]

end

/-- Settles O33: each event, and each hand-over, by the state of the segment and the queue. -/
theorem transmissionsAndCollisions : Obligations.TransmissionsAndCollisions := by
  refine ⟨fun seg s hr => ?_, fun seg s f q hr hl hq => ?_, fun c q => c.joinQueue_eq q, fun seg s f => ?_,
    fun s a x seg r => ?_, fun s f => ?_⟩
  · obtain ⟨hstart, hbackoff, hcut⟩ := exec_lineEvents (seg := seg) hr
    obtain ⟨g1, g2, g3, g4⟩ := (s.line seg).gapOver_eq
    obtain ⟨b1, b2⟩ := (s.line seg).backoffOver_eq
    obtain ⟨k1, k2⟩ := (s.line seg).cutOffDone_eq
    rw [hstart, hbackoff, hcut]
    refine ⟨fun h => by rw [g1 h]; rfl, fun h h' => by rw [g2 h h']; rfl, fun h h' => by rw [g3 h h'],
      fun h h' => by rw [g4 h h', State.setLine_line], fun h => by rw [b1 h]; rfl, fun h => by rw [b2 h, State.setLine_line],
      fun h => by rw [k1 h], fun h => by rw [k2 h, State.setLine_line]⟩
  · have hended := State.headEnded_eq (s := s) (seg := seg) f q
    refine ⟨⟨_, exec_frameSent hr hl hq, hended⟩, fun p ch sent hp => ?_⟩
    rw [exec_collision hr hl hq hp]
    refine ⟨fun he hd => ?_, fun h hc => ?_, fun h hc => ⟨_, ?_, hended⟩⟩
    · have hok : readBackFails (s.line seg).format sent ch = false := by
        rw [← Bool.not_eq_true, readBackFails_iff]; simp [he, hd]
      simp [hok]
    · rw [if_pos (readBackFails_iff.mpr h), State.collide, if_pos (by simp [Config.lastCollision]; omega)]
    · rw [if_pos (readBackFails_iff.mpr h), State.collide, if_neg (by simp [Config.lastCollision]; omega)]
      rfl
  · refine ⟨fun hd hq => State.handReply_room hd hq, State.handReply_disabled, State.handNotice_dropped,
      State.handReply_full, fun front n back hd hlen hq hn hfront => ?_⟩
    intro becomes
    have hinstead : ∀ {d : Controller}, (s.line seg).removeNotice = { d with queue := front ++ back } → d.line ≠ .idle →
        becomes d := fun hremoved hidle => State.handReply_instead hd hlen hq hn hremoved hidle
    refine ⟨fun hne hidle => ?_, fun hnil => ?_⟩
    · obtain ⟨x, front, rfl⟩ := List.exists_cons_of_ne_nil hne
      have hkept : ∀ y ∈ x :: front, y.isNotice = false := by
        intro y hy
        rw [← Bool.not_eq_true, QueuedFrame.isNotice_iff]
        exact hfront y hy
      exact hinstead (Controller.removeNotice_behind hq (hkept x (by simp)) (QueuedFrame.isNotice_iff.mpr hn)
        (fun y hy => hkept y (by simp [hy]))) hidle
    · subst hnil
      obtain ⟨htransmitting, hwaiting, hreceiving⟩ := Controller.removeNotice_head hq hn
      refine ⟨fun k h => hinstead (htransmitting k h) nofun, fun h => hinstead ?_ nofun,
        fun r h => hinstead (hreceiving r h) (by show (s.line seg).line ≠ .idle; rw [h]; exact nofun)⟩
      have hback : back ≠ [] := by
        rintro rfl
        rw [hq] at hlen
        simp at hlen
      rw [hwaiting h, restState_eq, waitState, if_neg hback]
      rfl
  · cases r <;> rfl
  · rw [State.broadcast_eq]
    refine ⟨fun ha hb => ?_, fun ha hb => ?_, fun ha hb => ?_, fun ha hb => ?_⟩ <;> simp [ha, hb]

end Sys2Proof.Machine
end

section
/-! PROOFS. The exchanges of the host command port (R173 to R178), the status byte and the attention factors (R190, R191,
R198, R199), and the commands that cannot run (R179, R180). -/

namespace Sys2Proof.Machine

/-! ### The status byte and the factors -/

theorem PortState.isReady_iff {p : PortState} : p.isReady = true ↔ ∃ r, p = .ready r := by
  cases p <;> simp [PortState.isReady]

theorem PortState.isExecuting_iff {p : PortState} : p.isExecuting = true ↔ ∃ k ps, p = .executing k ps := by
  cases p <;> simp [PortState.isExecuting]

/-- The bits of the status byte (R199). -/
theorem State.statusByte_bits (s : State) :
    s.statusByte.getLsbD 7 = s.port.state.isReady ∧ s.statusByte.getLsbD 6 = s.port.state.isExecuting
      ∧ s.statusByte.getLsbD 5 = s.port.refused ∧ s.statusByte.getLsbD 4 = s.port.check ∧ s.statusByte.getLsbD 3 = s.attn
      ∧ s.statusByte.getLsbD 2 = false ∧ s.statusByte.extractLsb' 0 2 = s.phase.code := by
  unfold State.statusByte
  generalize s.port.state.isReady = r, s.port.state.isExecuting = e, s.port.refused = f, s.port.check = k, s.attn = a,
    s.phase.code = p
  revert r e f k a p
  decide

/-- Two flags above the event factors. -/
theorem getLsbD_flags (a b : Bool) (v : BitVec 10) :
    (BitVec.ofBool a ++ (BitVec.ofBool b ++ v)).getLsbD 11 = a ∧ (BitVec.ofBool a ++ (BitVec.ofBool b ++ v)).getLsbD 10 = b
      ∧ ∀ i, i < 10 → (BitVec.ofBool a ++ (BitVec.ofBool b ++ v)).getLsbD i = v.getLsbD i := by
  refine ⟨?_, ?_, fun i hi => ?_⟩
  · rw [BitVec.getLsbD_append]; simp
  · rw [BitVec.getLsbD_append, BitVec.getLsbD_append]; simp
  · rw [BitVec.getLsbD_append, if_pos (by omega), BitVec.getLsbD_append, if_pos hi]

/-- The bits of the factor field (R198). -/
theorem State.factors_bits (s : State) :
    s.factors.getLsbD 11 = s.port.state.isReady ∧ s.factors.getLsbD 10 = !s.marks.isEmpty
      ∧ ∀ f : Factor, s.factors.getLsbD f.bit = s.factor f := by
  obtain ⟨h11, h10, hlow⟩ := getLsbD_flags s.port.state.isReady (!s.marks.isEmpty) s.events
  exact ⟨h11, h10, fun f => hlow f.bit (by cases f <;> decide)⟩

/-- ATTN is asserted by a factor that is set and enabled (R191). -/
theorem State.attn_iff {s : State} (hr : s.inReset = none) :
    s.attn = true ↔ ∃ i, i < 12 ∧ s.factors.getLsbD i = true ∧ s.enables.getLsbD i = true := by
  simp only [State.attn, hr, Option.isNone_none, Bool.true_and, decide_eq_true_eq]
  constructor
  · intro hne
    refine Classical.byContradiction (fun hnone => ?_)
    refine hne (BitVec.eq_of_getLsbD_eq (fun i hi => ?_))
    rw [BitVec.getLsbD_and, show BitVec.getLsbD (0 : BitVec 12) i = false from BitVec.getLsbD_zero]
    refine Classical.byContradiction (fun hbit => ?_)
    obtain ⟨hf, he⟩ := Bool.and_eq_true_iff.mp (Bool.not_eq_false _ ▸ hbit)
    exact hnone ⟨i, hi, hf, he⟩
  · rintro ⟨i, hi, hf, he⟩ hzero
    have hbit := congrArg (fun v => BitVec.getLsbD v i) hzero
    simp [BitVec.getLsbD_and, hf, he] at hbit

/-! ### Exchanges -/

section
variable {s : State} {status : Byte} {mosi : List Byte}

/-- A row of an exchange that ends (R173). -/
theorem exec_ends (hr : s.inReset = none) (hsel : s.port.selected = some status) :
    (exchangeKind mosi = .statusRead → exec (.statusRead (.ends mosi)) s = .next (s.statusRead status mosi))
      ∧ (exchangeKind mosi = .fetch → exec (.fetch (.ends mosi)) s = .next (s.fetchReply status mosi))
      ∧ (exchangeKind mosi = .commandFrame → exec (.commandFrame (.ends mosi)) s = .next (s.commandEnd status mosi)) :=
  ⟨fun hk => congrArg _ (State.exchange_ends hr hsel hk), fun hk => congrArg _ (State.exchange_ends hr hsel hk),
    fun hk => congrArg _ (State.exchange_ends hr hsel hk)⟩

/-- An exchange of any row that begins (R174). -/
theorem exec_begins {row : ExchangeEdge → Instr} (hrow : row = .statusRead ∨ row = .fetch ∨ row = .commandFrame)
    (hr : s.inReset = none) : exec (row .begins) s = .next s.beginExchange := by
  rcases hrow with rfl | rfl | rfl <;> exact congrArg _ (State.exchange_begins hr)

/-- Without an exchange in progress none ends (log 1). -/
theorem exec_ends_idle {row : ExchangeEdge → Instr} (hrow : row = .statusRead ∨ row = .fetch ∨ row = .commandFrame)
    (hsel : s.port.selected = none) (mosi : List Byte) : exec (row (.ends mosi)) s = .next s := by
  have hidle : ∀ kind finish, s.exchange kind finish (.ends mosi) = s := by intro kind finish; simp [State.exchange, hsel]
  rcases hrow with rfl | rfl | rfl <;> exact congrArg _ (hidle _ _)

/-- A fetch that finds no reply (R178). -/
theorem State.fetchReply_none (h : status.getLsbD 7 = false ∨ ∀ r, s.port.state ≠ .ready r) :
    s.fetchReply status mosi = s.shiftOut (shiftedOut mosi.length status [0xFF]) := by
  unfold State.fetchReply
  split
  · rename_i r hp
    rcases h with h | h
    · rw [h]; rfl
    · exact absurd hp (h r)
  all_goals rfl

theorem State.fetchReply_ready {r : HostReply} (h : status.getLsbD 7 = true) (hp : s.port.state = .ready r) :
    s.fetchReply status mosi = s.setPort { s.port with
      selected := none, miso := shiftedOut mosi.length status r.frame
      state := if r.frame.length + 1 ≤ mosi.length then .idle else .ready r } := by
  simp [State.fetchReply, hp, h]

end

/-- Settles O34: a status byte is fixed as the select falls, and a reply goes out as it stood then. -/
theorem exchangesShiftOutStatusAndReply : Obligations.ExchangesShiftOutStatusAndReply := by
  refine ⟨fun s hr row hrow => ⟨fun hsel => ⟨?_, exec_ends_idle hrow hsel⟩, fun hsel => ?_⟩,
    fun s status mosi hr hsel => ?_, fun s => ?_⟩
  · rw [exec_begins hrow hr, State.beginExchange, hsel]; rfl
  · obtain ⟨status, hstatus⟩ := Option.ne_none_iff_exists'.mp hsel
    rw [exec_begins hrow hr, State.beginExchange, hstatus]
  · obtain ⟨hread, hfetch, -⟩ := exec_ends (mosi := mosi) hr hsel
    refine ⟨fun hk => hread hk, fun hk hno => ?_, fun answer data hk hbit hp => ?_⟩
    · rw [hfetch hk, State.fetchReply_none hno]; rfl
    · have hlength : (HostReply.frame ⟨answer, data⟩).length = 3 + data.length := by
        simp [HostReply.frame]; omega
      rw [hfetch hk, State.fetchReply_ready hbit hp, hlength]
      refine ⟨fun hlen => ?_, fun hlen => ?_⟩
      · rw [if_neg (by omega), ← hp]; rfl
      · rw [if_pos (by omega)]; rfl
  · obtain ⟨h7, h6, h5, h4, h3, h2, h1⟩ := s.statusByte_bits
    obtain ⟨h11, h10, hevents⟩ := s.factors_bits
    refine ⟨?_, ?_, h5, h4, h3, h2, h1, ?_, ?_, hevents, State.attn_iff⟩
    · rw [h7, PortState.isReady_iff]
    · rw [h6, PortState.isExecuting_iff]
    · rw [h11, PortState.isReady_iff]
    · rw [h10]; simp

/-! ### Command frames -/

/-- A command frame passes the checks exactly when it is a code, a length of at most 32, as many parameters, and their CRC
(R176). -/
theorem commandOf?_iff {mosi ps : List Byte} {code : Byte} :
    commandOf? mosi = some (code, ps) ↔ ∃ len : Byte, len.toNat ≤ 32 ∧ ps.length = len.toNat
      ∧ mosi = code :: len :: ps ++ [crc8 (code :: len :: ps)] := by
  constructor
  · intro h
    match mosi with
    | [] | [_] => simp [commandOf?] at h
    | c :: len :: rest =>
      simp only [commandOf?] at h
      split at h
      · rename_i hok
        obtain ⟨hlen, hrest, hcrc⟩ := hok
        simp only [Option.some.injEq, Prod.mk.injEq] at h
        obtain ⟨rfl, rfl⟩ := h
        refine ⟨len, hlen, by rw [List.length_take]; omega, ?_⟩
        rw [List.cons_append, List.cons_append, ← hcrc, List.take_append_drop]
      · cases h
  · rintro ⟨len, hlen, hps, rfl⟩
    have htake : (ps ++ [crc8 (code :: len :: ps)]).take len.toNat = ps := by rw [← hps, List.take_left]
    have hdrop : (ps ++ [crc8 (code :: len :: ps)]).drop len.toNat = [crc8 (code :: len :: ps)] := by
      rw [← hps, List.drop_left]
    simp only [List.cons_append, commandOf?, htake, hdrop]
    simp [hlen, hps]

/-- Settles O35: by the port state, and by the checks of the frame. -/
theorem commandFramesAreCheckedAndTaken : Obligations.CommandFramesAreCheckedAndTaken := by
  intro s status mosi hr hsel hk
  have hexec := (exec_ends (mosi := mosi) hr hsel).2.2 hk
  have hout : shiftedOut mosi.length status [] = (status :: List.replicate mosi.length 0).take mosi.length := rfl
  refine ⟨fun k ps hp => ?_, fun hp => ⟨fun code len ps hlen hps hmosi => ?_, fun hbad => ?_⟩⟩
  · rw [hexec, State.commandEnd, hp]; rfl
  · have hcommand := commandOf?_iff.mpr ⟨len, hlen, hps, hmosi⟩
    rw [hexec, State.commandEnd, hcommand]
    cases hstate : s.port.state with
    | executing k qs => exact absurd hstate (hp k qs)
    | idle | ready _ => rfl
  · have hcommand : commandOf? mosi = none := by
      cases hc : commandOf? mosi with
      | none => rfl
      | some c =>
        obtain ⟨len, hlen, hps, hmosi⟩ := commandOf?_iff.mp hc
        exact absurd hmosi (hbad _ len _ hlen hps)
    rw [hexec, State.commandEnd, hcommand]
    cases hstate : s.port.state with
    | executing k qs => exact absurd hstate (hp k qs)
    | idle | ready _ => rfl

end Sys2Proof.Machine
end

section
/-! PROOFS. The commands that cannot run (R179, R180, R200). -/

namespace Sys2Proof.Machine

/-- The row answers BAD-PARAMETER to the parameters its code does not accept (R179). -/
def Rejects (k : Byte) (row : Instr) : Prop :=
  ∀ (s : State) (ps : List Byte), s.executing k ps → paramsAccepted k ps = false →
    exec row s = .next (s.replied .badParameter [])

/-- A command that reads its parameters first. -/
theorem Rejects.of_parse {k : Byte} {row : Instr} {α : Type} (parse : List Byte → Option α) (run : α → State → HostAnswer)
    (hrow : ∀ s, exec row s = .next (s.runCommand (isCode k) (withParams parse run)))
    (hparse : ∀ ps, paramsAccepted k ps = (parse ps).isSome) : Rejects k row := by
  intro s ps h hp
  rw [hparse, Option.isSome_eq_false_iff, Option.isNone_iff_eq_none] at hp
  rw [hrow, State.runCommand_bad h hp]

theorem noParams?_isSome (ps : List Byte) : ps.isEmpty = (noParams? ps).isSome := by cases ps <;> rfl

/-- SET-POLICY accepts no parameters as well (R184). -/
theorem rejects_setPolicy : Rejects codeSetPolicy .setPolicy := by
  intro s ps h hp
  have hnone : ps ≠ [] ∧ policyParams? ps = none := by
    have : (ps.isEmpty || (policyParams? ps).isSome) = false := hp
    simpa using this
  obtain ⟨b, ps, rfl⟩ := List.exists_cons_of_ne_nil hnone.1
  have hrun : setPolicy (b :: ps) s = failed .badParameter s := by simp [setPolicy, withParams, hnone.2]
  show Host.Outcome.next (s.runCommand (isCode codeSetPolicy) setPolicy) = _
  rw [State.runCommand_executing h (by simp [isCode]), hrun, State.complete_failed]

/-- Every command of the catalogue answers BAD-PARAMETER to parameters it does not accept. -/
theorem rejects_commandRow {k : Byte} (hk : k ∈ catalogue) : Rejects k (commandRow k) := by
  simp only [catalogue, List.mem_cons, List.not_mem_nil, or_false] at hk
  rcases hk with rfl | rfl | rfl | rfl | rfl | rfl | rfl | rfl | rfl | rfl | rfl | rfl | rfl | rfl | rfl | rfl | rfl | rfl
    | rfl | rfl | rfl | rfl | rfl | rfl | rfl | rfl | rfl | rfl | rfl | rfl | rfl
  · exact .of_parse configureParams? _ (fun _ => rfl) (fun _ => rfl)
  · exact .of_parse segmentParam? _ (fun _ => rfl) (fun _ => rfl)
  · exact .of_parse segmentParam? _ (fun _ => rfl) (fun _ => rfl)
  · exact .of_parse clearFlagsParams? _ (fun _ => rfl) (fun _ => rfl)
  · exact rejects_setPolicy
  · exact .of_parse startParam? _ (fun _ => rfl) (fun _ => rfl)
  · exact .of_parse noParams? _ (fun _ => rfl) noParams?_isSome
  · exact .of_parse clearParams? _ (fun _ => rfl) (fun _ => rfl)
  · exact .of_parse addrParam? _ (fun _ => rfl) (fun _ => rfl)
  · exact .of_parse identityParam? _ (fun _ => rfl) (fun _ => rfl)
  · exact .of_parse reserveParams? _ (fun _ => rfl) (fun _ => rfl)
  · exact .of_parse addrParam? _ (fun _ => rfl) (fun _ => rfl)
  · exact .of_parse addrParam? _ (fun _ => rfl) (fun _ => rfl)
  · exact .of_parse modifyParams? _ (fun _ => rfl) (fun _ => rfl)
  · exact .of_parse resolveContestParams? _ (fun _ => rfl) (fun _ => rfl)
  · exact .of_parse positionParam? _ (fun _ => rfl) (fun _ => rfl)
  · exact .of_parse identityParam? _ (fun _ => rfl) (fun _ => rfl)
  · exact .of_parse denyParams? _ (fun _ => rfl) (fun _ => rfl)
  · exact .of_parse identityParam? _ (fun _ => rfl) (fun _ => rfl)
  · exact .of_parse identityParam? _ (fun _ => rfl) (fun _ => rfl)
  · exact .of_parse barredIndexParam? _ (fun _ => rfl) (fun _ => rfl)
  · exact .of_parse openGroupParams? _ (fun _ => rfl) (fun _ => rfl)
  · exact .of_parse groupParam? _ (fun _ => rfl) (fun _ => rfl)
  · exact .of_parse memberParams? _ (fun _ => rfl) (fun _ => rfl)
  · exact .of_parse memberParams? _ (fun _ => rfl) (fun _ => rfl)
  · exact .of_parse groupParam? _ (fun _ => rfl) (fun _ => rfl)
  · exact .of_parse noParams? _ (fun _ => rfl) noParams?_isSome
  · exact .of_parse noParams? _ (fun _ => rfl) noParams?_isSome
  · exact .of_parse factorParam? _ (fun _ => rfl) (fun _ => rfl)
  · exact .of_parse factorParam? _ (fun _ => rfl) (fun _ => rfl)
  · exact .of_parse noParams? _ (fun _ => rfl) noParams?_isSome

/-- Settles O36: a row whose parameters do not parse answers BAD-PARAMETER. -/
theorem commandsThatCannotRunAreAnswered : Obligations.CommandsThatCannotRunAreAnswered := by
  intro s code ps h
  refine ⟨fun hk => ?_, fun hk hp => rejects_commandRow hk s ps h hp⟩
  show Host.Outcome.next (s.runCommand unknownCode (fun _ t => failed .unknownCommand t)) = _
  rw [State.runCommand_executing h (by simpa [unknownCode] using hk), State.complete_failed]

end Sys2Proof.Machine
end

section
/-! PROOFS. The host commands that act on no record: segments, policy, and those that read (R163, R169 to R171, R184, R191). -/

namespace Sys2Proof.Machine

/-! ### A host command, by what it comes to (R179) -/

section
variable {row : Instr} {k : Byte} {α : Type} {parse : List Byte → Option α} {run : α → State → HostAnswer} {s x : State}
  {ps : List Byte} {a : α} {status : HostStatus} {data : List Byte}

/-- A command whose parameters are accepted runs, and completes. -/
theorem exec_command (parse : List Byte → Option α) (run : α → State → HostAnswer) (h : s.executing k ps)
    (hx : parse ps = some a) (hrow : exec row s = .next (s.runCommand (isCode k) (withParams parse run))) :
    exec row s = .next (s.complete (run a s)) := by
  rw [hrow, State.runCommand_param h hx]

/-- What a command that touched neither table nor groups comes to. -/
theorem State.complete_quiet (hb : ∀ a, x.binding a = s.binding a) (hg : ∀ g, x.group g = s.group g) :
    s.complete { state := x, status := status, data := data } = x.replied status data := by
  rw [State.complete_eq, commit_quiet hb hg]

end

/-! ### Segment commands -/

section
variable {s : State} {seg : Segment}

theorem State.complete_setLine (c : Controller) (status : HostStatus) (data : List Byte) :
    s.complete { state := s.setLine seg c, status := status, data := data } = (s.setLine seg c).replied status data :=
  State.complete_quiet (by simp) (by simp)

theorem configureSegment_eq (fmt : Format) :
    ((s.line seg).line = .disabled → configureSegment (seg, fmt) s =
        { state := s.setLine seg { s.line seg with format := fmt }, status := .done, data := formatBytes fmt })
      ∧ ((s.line seg).line ≠ .disabled → configureSegment (seg, fmt) s = failed .wrongState s) := by
  refine ⟨fun h => ?_, fun h => ?_⟩
  · simp [configureSegment, h, LineState.isDisabled]
  · simp [configureSegment, LineState.isDisabled_eq_false h]

theorem enableSegment_eq :
    ((s.line seg).line = .disabled → enableSegment seg s =
        { state := s.setLine seg { s.line seg with line := .idle, ready := [], queue := [], collisions := 0, idle := 0 }
          status := .done, data := [0x01] })
      ∧ ((s.line seg).line ≠ .disabled → enableSegment seg s =
        { state := s, status := .done, data := [(s.line seg).line.code] }) := by
  refine ⟨fun h => ?_, fun h => ?_⟩
  · simp [enableSegment, Controller.enable, h, LineState.isDisabled, lineStateBytes, LineState.code]
  · simp [enableSegment, Controller.enable, LineState.isDisabled_eq_false h, lineStateBytes]

/-- A segment that is disabled loses its listing and, with a notice in its queue, sets NOTICE-DROPPED (R170). -/
theorem State.disableLine_eq :
    let off := (s.setLine seg { s.line seg with line := .disabled, ready := [], queue := [], collisions := 0, idle := 0 })
      |>.setListing seg none
    ((s.line seg).line = .disabled → s.disableLine seg = s)
      ∧ ((s.line seg).line ≠ .disabled → (∀ q ∈ (s.line seg).queue, q.cls ≠ .notice) → s.disableLine seg = off)
      ∧ ((s.line seg).line ≠ .disabled → (∃ q ∈ (s.line seg).queue, q.cls = .notice) →
        s.disableLine seg = off.setFactor .noticeDropped) := by
  intro off
  refine ⟨fun h => ?_, fun h hn => ?_, fun h hn => ?_⟩
  · simp [State.disableLine, h, LineState.isDisabled]
  · have hnone : (s.line seg).queue.any QueuedFrame.isNotice = false := by simpa [QueuedFrame.isNotice] using hn
    simp [State.disableLine, LineState.isDisabled_eq_false h, hnone, Controller.disable, off]
  · have hsome : (s.line seg).queue.any QueuedFrame.isNotice = true := by simpa [QueuedFrame.isNotice] using hn
    simp [State.disableLine, LineState.isDisabled_eq_false h, hsome, Controller.disable, off]

end

/-- Settles O37: each command by whether its segment is disabled. -/
theorem segmentCommandsActOnOneController : Obligations.SegmentCommandsActOnOneController := by
  intro s ps seg c emptied
  refine ⟨fun fmt h hx => ?_, fun h hx => ?_, fun h hx => ?_, fun named h hx => ?_⟩
  · rw [exec_command configureParams? configureSegment h hx rfl]
    refine ⟨fun hd => ?_, fun hd => ?_⟩
    · rw [(configureSegment_eq fmt).1 hd, State.complete_setLine]; rfl
    · rw [(configureSegment_eq fmt).2 hd, State.complete_failed]
  · rw [exec_command segmentParam? enableSegment h hx rfl]
    refine ⟨fun hd => ?_, fun hd => ?_⟩
    · rw [enableSegment_eq.1 hd, State.complete_setLine]
    · rw [enableSegment_eq.2 hd, State.complete_same]
  · intro off
    obtain ⟨hsame, hquiet, hnotice⟩ := State.disableLine_eq (s := s) (seg := seg)
    rw [exec_command segmentParam? disableSegment h hx rfl, disableSegment]
    refine ⟨fun hd => ?_, fun hd hn => ?_, fun hd hn => ?_⟩
    · rw [hsame hd, State.complete_same, lineStateBytes, hd]; rfl
    · rw [hquiet hd hn, State.complete_quiet (by simp) (by simp), lineStateBytes]
      simp [LineState.code, off, emptied, c]
    · rw [hnotice hd hn, State.complete_quiet (by simp) (by simp), lineStateBytes]
      simp [LineState.code, off, emptied, c]
  · rw [exec_command clearFlagsParams? clearSegmentFlags h hx rfl, clearSegmentFlags, State.complete_setLine]
    rfl

/-! ### SET-POLICY -/

theorem le16_fromLe16 (lo hi : Byte) : le16 (fromLe16 lo hi) = [lo, hi] := by
  have hlo := lo.isLt
  have hhi := hi.isLt
  unfold le16 fromLe16
  congr 1
  · apply BitVec.eq_of_toNat_eq
    simp only [BitVec.toNat_ofNat]
    omega
  · congr 1
    apply BitVec.eq_of_toNat_eq
    simp only [BitVec.toNat_ofNat]
    omega

theorem admissionModeOf?_code {m : Byte} {mode : AdmissionMode} (h : admissionModeOf? m = some mode) : mode.code = m := by
  unfold admissionModeOf? at h
  (repeat' split at h) <;> cases h
  all_goals exact (by assumption : m = _).symm

/-- The thirteen bytes of a policy read back (R184). -/
theorem policyParams?_bytes {ps : List Byte} {p : Policy} (h : policyParams? ps = some p) : policyBytes p = ps := by
  unfold policyParams? at h
  split at h
  · split at h
    · rename_i mode hm
      dsimp only at h
      split at h
      · cases h
        simp [policyBytes, le16_fromLe16, admissionModeOf?_code hm]
      · cases h
    · cases h
  · cases h

theorem policyParams?_nil {ps : List Byte} {p : Policy} (h : policyParams? ps = some p) : ps ≠ [] := by
  rintro rfl
  simp [policyParams?] at h

/-- Settles O38: a policy's thirteen bytes are those it was read from. -/
theorem setPolicyReplacesThePolicy : Obligations.SetPolicyReplacesThePolicy := by
  intro s ps h
  have hexec : exec .setPolicy s = .next (s.complete (setPolicy ps s)) :=
    congrArg _ (State.runCommand_executing h (ok := isCode codeSetPolicy) rfl setPolicy)
  rw [hexec]
  refine ⟨fun hps => ?_, fun p hp => ?_⟩
  · subst hps
    rw [setPolicy, State.complete_same]
  · obtain ⟨b, qs, rfl⟩ := List.exists_cons_of_ne_nil (policyParams?_nil hp)
    have hrun : setPolicy (b :: qs) s = replacePolicy p s := by simp [setPolicy, withParams, hp]
    rw [hrun, replacePolicy]
    refine ⟨fun hlim => ?_, fun hlim => ?_⟩
    · rw [if_pos hlim, State.complete_failed]
    · rw [if_neg (Nat.not_lt.mpr hlim), State.complete_quiet, policyParams?_bytes hp]
      all_goals exact fun _ => rfl

end Sys2Proof.Machine
end

section
/-! PROOFS. READ-RECORD (R3, R186, R201). -/

namespace Sys2Proof.Machine

/-- The fields of a record as they are shifted out, by the view of it (R201). -/
theorem exec_readRecord {s : State} {ps : List Byte} {a : Addr} (h : s.executing 0x20 ps) (hx : addrParam? ps = some a)
    {data : List Byte} (hd : recordBytes a s = data) : exec .readRecord s = .next (s.replied .done data) := by
  rw [exec_command addrParam? readRecord h hx rfl, readRecord, State.complete_same, hd]

theorem yesNoCode_eq (v : Bool) : yesNoCode v = if v then 1 else 0 := by cases v <;> rfl

/-- A record's data bytes, by the view of its binding: what stands before the fields, and the fields with the groups. -/
def RecordView.fields (v : RecordView) (groups : List Byte) : List Byte :=
  fieldBytes 7 (fun p => identityBytes p.1 ++ [p.2]) v.identity ++ fieldBytes 1 (fun k => [leaseKindCode k]) v.kind
    ++ fieldBytes 4 (fun p => le16 p.1 ++ le16 p.2) v.lease ++ fieldBytes 1 (fun g => [segmentCode g]) v.segment
    ++ fieldBytes 2 (fun p => [p.1, BitVec.ofNat 8 p.2]) v.offer ++ fieldBytes 2 le16 v.hold
    ++ fieldBytes 8 (fun c => identityBytes c.identity ++ [c.cls, segmentCode c.segment]) v.challenger
    ++ fieldBytes 2 le16 v.contest ++ fieldBytes 3 (fun r => [0#4 ++ r.sequence, r.kind, r.status.code]) v.replay
    ++ (tagField v.tag ++ zeros (8 - v.tag.length)) ++ groups

theorem recordBytes_eq (a : Addr) (s : State) :
    recordBytes a s = [addrByte a, (s.binding a).state.code] ++ le16 (s.binding a).view.presence
      ++ [yesNoCode (s.binding a).reservedYes]
      ++ (s.binding a).view.fields (BitVec.ofNat 8 (s.groupsOf a).length :: (s.groupsOf a).map groupByte) := by
  simp only [recordBytes, RecordView.fields, List.append_assoc]

/-- Which fields of a contest are present (R3, R201). -/
theorem presence_contested (h : Holder) (l : Lease) (v : Bool) (p : Option Replay) (c : Challenger) (k : Option Countdown) :
    (Binding.contested h l v p c k).view.presence = 75 + (if l.kind = .timed then 4 else 0) + (if k.isSome then 128 else 0)
      + (if p.isSome then 256 else 0) + (if p.isSome then 512 else 0) := by
  cases l <;> cases k <;> cases p <;> simp [RecordView.presence, Binding.view, Lease.lengths?, Lease.kind]

/-- Which fields of a BOUND record are present (R3, R201). -/
theorem presence_bound (h : Holder) (l : Lease) (v : Bool) (p : Option Replay) :
    (Binding.bound h l v p).view.presence = 11 + (if l.kind = .timed then 4 else 0) + (if p.isSome then 256 else 0)
      + (if p.isSome then 512 else 0) := by
  cases l <;> cases p <;> simp [RecordView.presence, Binding.view, Lease.lengths?, Lease.kind]

/-- Settles O41: each state of the binding has its view, and absent fields read zeros. -/
theorem readRecordReportsTheRecord : Obligations.ReadRecordReportsTheRecord := by
  intro s ps a h hx who zero tail pair bit reads
  have hreads : ∀ {b : Binding} {presence : Nat} {reserved : Bool} {fields : List Byte}, s.binding a = b →
      b.view.presence = presence → b.reservedYes = reserved →
      b.view.fields (BitVec.ofNat 8 (s.groupsOf a).length :: (s.groupsOf a).map groupByte) = fields →
      reads presence reserved fields := by
    intro b presence reserved fields hb hp hr hf
    subst hb hp hr hf
    exact exec_readRecord h hx (by rw [recordBytes_eq, yesNoCode_eq])
  have hpair : ∀ p, pair p = fieldBytes 3 (fun r => [0#4 ++ r.sequence, r.kind, r.status.code]) p := by
    intro p
    cases p <;> rfl
  refine ⟨fun hb => hreads hb rfl rfl ?free, fun r hb => hreads hb rfl rfl ?reserved,
    fun h o r hb => ⟨fun k ho => ?own, fun ho => ?offered⟩,
    fun h v p => ⟨fun g r hb => hreads hb (presence_bound ..) rfl ?timed,
      fun hb => hreads hb (presence_bound ..) rfl ?permanent⟩,
    fun h r hb => hreads hb rfl rfl ?held, fun r hb => hreads hb rfl rfl ?anonymous,
    fun h l v p c k hb => hreads hb ?presence rfl ?contested⟩
  case own =>
    subst ho
    refine hreads hb (by simp [RecordView.presence, Binding.view, Origin.kind?]) rfl ?_
    simp [RecordView.fields, Binding.view, fieldBytes, zeros, tagField, List.replicate_succ, who, zero, tail, Origin.kind?,
      Origin.code]
  case offered =>
    rcases ho with rfl | rfl
    all_goals
      refine hreads hb (by simp [RecordView.presence, Binding.view, Origin.kind?]) rfl ?_
      simp [RecordView.fields, Binding.view, fieldBytes, zeros, tagField, List.replicate_succ, who, zero, tail, Origin.kind?,
        Origin.code]
  case presence => rw [presence_contested]; simp [bit]
  case contested =>
    cases l <;> cases k <;> simp [RecordView.fields, Binding.view, fieldBytes, zeros, tagField, List.replicate_succ, who, zero,
      tail, hpair, Lease.lengths?, Lease.kind, leaseKindCode]
  case timed | permanent =>
    simp [RecordView.fields, Binding.view, fieldBytes, zeros, tagField, List.replicate_succ, who, zero, tail, hpair,
      Lease.lengths?, Lease.kind, leaseKindCode]
  all_goals simp [RecordView.fields, Binding.view, fieldBytes, zeros, tagField, List.replicate_succ, who, zero, tail]

end Sys2Proof.Machine
end

section
/-! PROOFS. The commands that report what stands (R73, R74, R151, R185, R187, R191). -/

namespace Sys2Proof.Machine

/-- A command that changes nothing replies with what it read. -/
theorem exec_reads {row : Instr} {k : Byte} {α : Type} {s : State} {ps : List Byte} {a : α} (parse : List Byte → Option α)
    (run : α → State → HostAnswer) {data : List Byte} (h : s.executing k ps) (hx : parse ps = some a)
    (hrow : exec row s = .next (s.runCommand (isCode k) (withParams parse run)))
    (hrun : run a s = { state := s, status := .done, data := data }) : exec row s = .next (s.replied .done data) := by
  rw [exec_command parse run h hx hrow, hrun, State.complete_same]

/-! ### FIND-IDENTITY -/

section
variable {s : State} {x : Identity} {a : Addr}

theorem mem_parties_iff {b : Binding} : x ∈ b.parties ↔ b.identity? = some x ∨ b.challenger? = some x := by
  rw [← Binding.stands_iff]
  simp [Binding.stands]

/-- The search of R187 finds the one binding the identity stands in. -/
theorem State.findBinding_stands (hs : s.IdentitiesStandOnce) (ha : x ∈ (s.binding a).parties) :
    s.findBinding (Binding.stands x) = some a :=
  State.findBinding_of_unique (Binding.stands_iff.mpr ha) (fun _ hb => party_unique hs ha (Binding.stands_iff.mp hb))

theorem State.findBinding_stands_none (hn : ∀ a, x ∉ (s.binding a).parties) :
    s.findBinding (Binding.stands x) = none :=
  State.findBinding_none (fun a => Bool.eq_false_iff.mpr (fun h => hn a (Binding.stands_iff.mp h)))

theorem Binding.state_of_challenger {b : Binding} (h : b.challenger? = some x) : b.state = .contested := by
  cases b <;> simp_all [Binding.challenger?, Binding.state]

/-- The first two parties of a contest differ, so that a challenger is not also reported as the identity. -/
theorem Binding.identity_ne_challenger {b : Binding} (hb : b.parties.Nodup) (h : b.challenger? = some x) :
    b.identity? ≠ some x := by
  cases b <;> simp_all [Binding.challenger?, Binding.identity?, Binding.parties]

/-- Where the identity stands, in the first three bytes of R202. -/
def standingBytes (x : Identity) (s : State) : List Byte :=
  match s.findBinding (Binding.stands x) with
  | some a => [addrByte a, roleByte x (s.binding a), (s.binding a).state.code]
  | none => [0, absentByte, absentByte]

theorem findIdentity_eq (x : Identity) (s : State) : findIdentity x s =
    { state := s, status := .done, data := standingBytes x s ++ [yesNoCode (s.isBarred x), positionByte x s] } := rfl

theorem standingBytes_identity (hs : s.IdentitiesStandOnce) (ha : (s.binding a).identity? = some x) :
    standingBytes x s = [addrByte a, 0, (s.binding a).state.code] := by
  simp [standingBytes, State.findBinding_stands hs (mem_parties_iff.mpr (.inl ha)), roleByte, ha]

theorem standingBytes_challenger (hs : s.IdentitiesStandOnce) (ha : (s.binding a).challenger? = some x) :
    standingBytes x s = [addrByte a, 1, 5] := by
  have hrole := Binding.identity_ne_challenger (hs.1 a).1 ha
  simp [standingBytes, State.findBinding_stands hs (mem_parties_iff.mpr (.inr ha)), roleByte, hrole,
    Binding.state_of_challenger ha, BindingState.code]

theorem standingBytes_absent (hn : ∀ a, x ∉ (s.binding a).parties) : standingBytes x s = [0, 0xFF, 0xFF] := by
  simp [standingBytes, State.findBinding_stands_none hn, absentByte]

/-- The place of the entry in the admission queue, which holds one entry of an identity (R69). -/
theorem positionByte_entry {n : Nat} {e : AdmissionEntry} (hnodup : (s.admission.map (·.identity)).Nodup)
    (he : s.admission[n]? = some e) (hx : e.identity = x) : positionByte x s = BitVec.ofNat 8 n := by
  obtain ⟨hn, hget⟩ := List.getElem?_eq_some_iff.mp he
  have hfind : s.admission.findIdx? (fun e => decide (e.identity = x)) = some n := by
    rw [List.findIdx?_eq_some_iff_getElem]
    refine ⟨hn, by simp [hget, hx], fun j hj => ?_⟩
    have hne := List.pairwise_iff_getElem.mp hnodup j n (by simp; omega) (by simpa using hn) hj
    simpa [hget, hx] using hne
  simp [positionByte, hfind]

theorem positionByte_absent (hn : ∀ e ∈ s.admission, e.identity ≠ x) : positionByte x s = 0xFF := by
  have hfind : s.admission.findIdx? (fun e => decide (e.identity = x)) = none := by
    simpa [List.findIdx?_eq_none_iff] using hn
  simp [positionByte, hfind, absentByte]

theorem isBarred_iff : s.isBarred x = true ↔ x ∈ s.barred := by simp [State.isBarred]

end

/-! ### READ-STATUS -/

/-- Bindings are counted one by one or as a list. -/
theorem State.countBindings_eq (p : Binding → Bool) (s : State) :
    s.countBindings p = (allAddrs.filter (fun a => p (s.binding a))).length :=
  List.countP_eq_length_filter

/-- Settles O42: each command reads one part of the state and changes none. -/
theorem readingCommandsReportWhatStands : Obligations.ReadingCommandsReportWhatStands := by
  refine ⟨fun s ps x h hx hs hnodup => ?_, fun s ps => ⟨fun p h hx => ?_, fun i h hx => ?_, fun g h hx => ?_, fun h => ?_,
    fun h => ?_⟩⟩
  · refine ⟨_, _, _, exec_reads identityParam? findIdentity h hx rfl (findIdentity_eq x s), fun hb => ?_, fun hb => ?_,
      fun n e => positionByte_entry hnodup, positionByte_absent, fun a => standingBytes_identity hs,
      fun a => standingBytes_challenger hs, standingBytes_absent⟩
    · rw [isBarred_iff.mpr hb, yesNoCode_eq, if_pos rfl]
    · rw [Bool.eq_false_iff.mpr (fun hc => hb (isBarred_iff.mp hc))]; rfl
  · refine ⟨fun e he => exec_reads positionParam? readAdmission h hx rfl ?_,
      fun hp => exec_reads positionParam? readAdmission h hx rfl ?_⟩
    · simp [readAdmission, readAdmission.fieldBytesOrNone, he, entryBytes, tagField]
    · simp [readAdmission, readAdmission.fieldBytesOrNone, List.getElem?_eq_none hp]
  · refine exec_reads barredIndexParam? readBarred h hx rfl ?_
    simp [readBarred, List.extract_eq_take_drop]
  · refine ⟨fun hg => exec_reads groupParam? readGroup h hx rfl ?_,
      fun limit p m hg => exec_reads groupParam? readGroup h hx rfl ?_⟩ <;> simp [readGroup, hg, groupFields, openGroupBytes]
  · exact exec_reads noParams? readFactors h rfl rfl rfl
  · intro seconds number
    have hseconds : seconds = s.phase.recallRemaining := by cases hp : s.phase <;> simp [seconds, hp, Phase.recallRemaining]
    have hnumber : ∀ k, number k = BitVec.ofNat 8 (s.countBindings (fun b => decide (b.state = k))) := by
      intro k
      rw [State.countBindings_eq]
    have hreset : s.lastReset.code = if s.lastReset = .powerOn then 0 else 1 := by cases s.lastReset <;> rfl
    refine exec_reads noParams? readStatus h rfl rfl ?_
    rw [← hreset]
    simp [readStatus, statusBytes, phaseByte, hseconds, hnumber]

end Sys2Proof.Machine
end

section
/-! PROOFS. A host command that moves or rewrites records, as its completion leaves it (R25, R137, R179). -/

namespace Sys2Proof.Machine

section
variable {s y x : State} {a : Addr} {b : Binding}

/-- A command that moved one binding and unbound nothing completes (R179). -/
theorem movedTo.complete (h : movedTo s y x a b) (hk : (s.binding a).isBound = true → b.isBound = true)
    (status : HostStatus) (data : List Byte) (g : List Addr) :
    moves s (y.replied status data) (s.complete { state := x, status := status, data := data, granted := g }) a b g := by
  rw [State.complete_eq]
  exact (h.commit_kept g hk).replied status data

/-- A command that unbound the binding it moved completes, its listings abandoned (R137). -/
theorem movedTo.complete_unbound (h : movedTo s y x a b) (hs : (s.binding a).isBound = true) (hb : b.isBound = false)
    (status : HostStatus) (data : List Byte) (g : List Addr) :
    moves s ((y.withoutListingsOf a).replied status data)
      (s.complete { state := x, status := status, data := data, granted := g }) a b g := by
  rw [State.complete_eq]
  exact (h.commit_unbound g hs hb).replied status data

/-- What completing a command leaves of the table, the queues and the memberships. -/
@[simp] theorem State.complete_keeps (s x : State) (status : HostStatus) (data : List Byte) (g : List Addr) :
    (s.complete { state := x, status := status, data := data, granted := g }).freeQueue = x.freeQueue
      ∧ (s.complete { state := x, status := status, data := data, granted := g }).holdQueue = x.holdQueue
      ∧ (s.complete { state := x, status := status, data := data, granted := g }).boundary = x.boundary
      ∧ (s.complete { state := x, status := status, data := data, granted := g }).groups = x.groups
      ∧ (s.complete { state := x, status := status, data := data, granted := g }).poolFree = x.poolFree
      ∧ (∀ k, (s.complete { state := x, status := status, data := data, granted := g }).group k = x.group k)
      ∧ (∀ c, (s.complete { state := x, status := status, data := data, granted := g }).binding c = x.binding c) := by
  rw [State.complete_eq]
  simp [State.replied]

/-- A record is written in place. -/
theorem rewrites_complete (hk : (s.binding a).isBound = true → b.isBound = true) (status : HostStatus) (data : List Byte)
    (g : List Addr) :
    rewrites s (s.replied status data)
      (s.complete { state := s.setBinding a b, status := status, data := data, granted := g }) a b g := by
  obtain ⟨-, -, -, -, -, -, -, -, -, -, -, -, hmoved⟩ := movedTo_entries s a
  refine ((hmoved b).complete hk status data g).rewrites ?_ ?_ ?_ ?_ ?_ <;> simp [State.replied]

/-- A binding goes to FREE at the tail of its queue, and the command completes. -/
theorem goesFreeTail_complete (hk : (s.binding a).isBound = false) (status : HostStatus) (data : List Byte) :
    goesFreeTail s (s.replied status data)
      (s.complete { state := s.goFree .tail a, status := status, data := data }) a := by
  obtain ⟨hgroups, hpool⟩ := State.goFree_drops .tail a s
  exact ⟨((movedTo_entries s a).1 .tail).complete (by simp [hk]) status data [], by simp, by simp,
    fun g => by simp [hgroups], by simp [hpool]⟩

/-- A binding goes to RESERVED, and the command completes. -/
theorem goesReserved_complete (hk : (s.binding a).isBound = false) (r : Reservation) (status : HostStatus)
    (data : List Byte) :
    goesReserved s (s.replied status data) (s.complete { state := s.goReserved r a, status := status, data := data }) a r := by
  obtain ⟨-, -, -, hmoved, -⟩ := movedTo_entries s a
  obtain ⟨⟨hgroups, hpool⟩, hfree, hhold⟩ := State.goReserved_drops r a s
  exact ⟨(hmoved r).complete (by simp [hk]) status data [], ⟨by simp [hfree], by simp [hhold]⟩, fun g => by simp [hgroups],
    by simp [hpool]⟩

/-- A command that moved several bindings and unbound none completes. -/
theorem applied_complete {z : State} (hz : z = { y with
      table := z.table, freeQueue := z.freeQueue, holdQueue := z.holdQueue, boundary := z.boundary
      groups := z.groups, poolFree := z.poolFree })
    (hgen : y.generation = s.generation) (hmarks : y.marks = s.marks)
    (hk : ∀ c, (s.binding c).isBound = true → (z.binding c).isBound = true) (status : HostStatus) (data : List Byte)
    (g : List Addr) :
    applied s (y.replied status data) (s.complete { state := z, status := status, data := data, granted := g }) g := by
  have hzgen : z.generation = s.generation := by rw [hz]; exact hgen
  have hzmarks : z.marks = s.marks := by rw [hz]; exact hmarks
  rw [State.complete_eq]
  constructor
  · rw [commit_of_bound hk]
    rw [hz]
    rfl
  · exact counted_of_commit (s0 := s) (x := z) (fun _ => rfl) (fun _ => rfl) (by simp [State.replied]) (by simp [State.replied])
      hzgen hzmarks (by simp [State.replied]) (by simp [State.replied])

end

end Sys2Proof.Machine
end

section
/-! PROOFS. RESERVE, UNRESERVE and MODIFY (R15, R93, R94, R96). -/

namespace Sys2Proof.Machine

/-! ### RESERVE -/

section
variable {s : State} {a b : Addr} {r : Reservation}

theorem State.standsElsewhere_iff {x : Identity} :
    s.standsElsewhere x a = true ↔ ∃ b, b ≠ a ∧ x ∈ (s.binding b).parties ∧ (s.binding b).state ≠ .held := by
  simp [State.standsElsewhere, Binding.stands_iff, mem_allAddrs, and_assoc]

theorem isBound_of_reservable {x : Identity} {b : Binding} (h : reservable x b = true) : b.isBound = false := by
  rcases reservable_iff.mp h with rfl | ⟨_, _, rfl, _⟩ <;> rfl

/-- RESERVE of an address the identity may have, by the three tests of R94. -/
theorem reserveAddress_done (hbar : r.identity ∉ s.barred) (hfree : reservable r.identity (s.binding a) = true)
    (helse : s.standsElsewhere r.identity a = false) : reserveAddress (a, r) s =
      { state := (s.forgetElsewhere r.identity a).goReserved r a, status := .done, data := [addrByte a] } := by
  have hb : s.isBarred r.identity = false := Bool.eq_false_iff.mpr (fun h => hbar (isBarred_iff.mp h))
  simp [reserveAddress, hb, hfree, helse, State.anonymizeOther_eq]

/-- RESERVE when one of the three tests fails (R94). -/
theorem reserveAddress_failed (h : s.isBarred r.identity = true ∨ reservable r.identity (s.binding a) = false
    ∨ s.standsElsewhere r.identity a = true) : reserveAddress (a, r) s = failed .wrongState s := by
  have htest : (s.isBarred r.identity || !reservable r.identity (s.binding a) || s.standsElsewhere r.identity a) = true := by
    rcases h with h | h | h <;> simp [h]
  simp only [reserveAddress, htest, if_true]

/-- The one hold of the identity elsewhere is made anonymous (R94, R9). -/
theorem State.forgetElsewhere_held {x : Identity} {h : Holder} {k : Countdown} (hs : s.IdentitiesStandOnce) (hba : b ≠ a)
    (hb : s.binding b = .held (some h) k) (hx : h.identity = x) :
    s.forgetElsewhere x a = (s.setBinding b (.held none k)).dropMember b := by
  have hfind : s.findElsewhere (isHeldBy x) a = some b := by
    refine State.findElsewhere_some hba (by simp [hb, isHeldBy, hx]) (fun c _ hc => ?_)
    exact party_unique hs (by simp [hb, Binding.parties, hx]) (isHeldBy_iff.mp hc).1
  simp only [State.forgetElsewhere, hfind, State.makeAnonymous_of hb]

/-- The entries of an address are those of its own memberships alone. -/
theorem State.entriesOf_dropMember_ne (hab : a ≠ b) : (s.dropMember b).entriesOf a = s.entriesOf a := by
  unfold State.entriesOf
  congr 1
  apply List.map_congr_left
  intro g _
  rw [State.group_dropMember, GroupRecord.members_drop, dropAddr, List.count_filter (by simpa using hab)]

end

/-! ### UNRESERVE and MODIFY -/

section
variable {s : State} {a : Addr}

theorem unreserveAddress_failed (hb : s.binding a = .free ∨ (s.binding a).state = .held
    ∨ ∃ h o r, s.binding a = .offered h o r ∧ (o = .free ∨ o = .held)) :
    unreserveAddress a s = failed .wrongState s := by
  rcases hb with hb | hb | ⟨h, o, r, hb, rfl | rfl⟩
  · simp [unreserveAddress, hb]
  · cases h : s.binding a <;> simp [unreserveAddress, h, Binding.state] at hb ⊢
  · simp [unreserveAddress, hb]
  · simp [unreserveAddress, hb]

theorem modifyAddress_failed {c : Byte} {choice : LeaseChoice} {n : Nat} {tag : Tag} (h1 : (s.binding a).state ≠ .bound)
    (h2 : (s.binding a).state ≠ .reserved) : modifyAddress (a, c, choice, n, tag) s = failed .wrongState s := by
  cases h : s.binding a <;> simp [modifyAddress, h, Binding.state] at h1 h2 ⊢

end

/-- Settles O43: each command by the state of the address it names. -/
theorem reserveUnreserveAndModify : Obligations.ReserveUnreserveAndModify := by
  refine ⟨fun s ps a => ⟨fun r h hx => ?_, fun h hx => ?_⟩, fun s ps a c choice n tag h hx => ?_⟩
  · intro u free
    have hexec := exec_command reserveParams? reserveAddress h hx (row := .reserve) rfl
    refine ⟨fun hbar hfree hn => ?_, fun b hh k hbar hs hba hfree hb hid => ?_, fun hbad => ?_⟩
    · have hres := reservable_iff.mpr hfree
      have helse : s.standsElsewhere r.identity a = false :=
        Bool.eq_false_iff.mpr (fun he => let ⟨b, hb, hp, _⟩ := State.standsElsewhere_iff.mp he; hn b hb hp)
      rw [reserveAddress_done hbar hres helse, State.forgetElsewhere_none hn] at hexec
      exact ⟨_, hexec, goesReserved_complete (isBound_of_reservable hres) r .done _⟩
    · have helse : s.standsElsewhere r.identity a = false :=
        Bool.eq_false_iff.mpr (fun he => let ⟨c, hc, hp, hst⟩ := State.standsElsewhere_iff.mp he
          hst (State.elsewhere_held hs hb hid c hc hp))
      rw [reserveAddress_done hbar (reservable_iff.mpr (.inl hfree)) helse, State.forgetElsewhere_held hs hba hb hid] at hexec
      have hab : a ≠ b := Ne.symm hba
      obtain ⟨⟨hgroups, hpool⟩, hfreeq, hholdq⟩ :=
        State.goReserved_drops r a ((s.setBinding b (.held none k)).dropMember b)
      obtain ⟨hfields, hcounts⟩ := applied_complete (s := s) (y := s)
        (z := ((s.setBinding b (.held none k)).dropMember b).goReserved r a) rfl rfl rfl
        (fun d hd => by
          by_cases hda : d = a
          · rw [hda, hfree] at hd; cases hd
          · by_cases hdb : d = b
            · rw [hdb, hb] at hd; cases hd
            · simpa [hda, hdb] using hd) .done [addrByte a] []
      refine ⟨_, hexec, hfields, by simp, by simp [hba], fun d hda hdb => by simp [hda, hdb], ⟨?_, ?_⟩, fun g => ?_, ?_,
        hcounts⟩
      · simp [hfreeq]
      · simp [hholdq]
      · simp [hgroups]
      · simp only [State.complete_keeps, hpool, State.entriesOf_dropMember_ne hab]
        simp [State.entriesOf]
        omega
    · rw [hexec, reserveAddress_failed, State.complete_failed]
      rcases hbad with hbad | hbad | hbad
      · exact .inl (isBarred_iff.mpr hbad)
      · exact .inr (.inl (Bool.eq_false_iff.mpr (fun hc => hbad (reservable_iff.mp hc))))
      · exact .inr (.inr (State.standsElsewhere_iff.mpr hbad))
  · have hexec := exec_command addrParam? unreserveAddress h hx (row := .unreserve) rfl
    refine ⟨fun r hb => ⟨_, hexec, ?_⟩, fun h l v p hb => ⟨_, hexec, ?_⟩, fun h l v p c k hb => ⟨_, hexec, ?_⟩,
      fun h k r hb => ⟨_, hexec, ?_⟩, fun hb => by rw [hexec, unreserveAddress_failed hb, State.complete_failed]⟩
    · have hrun : unreserveAddress a s = { state := s.goFree .tail a, status := .done, data := [0] } := by
        simp [unreserveAddress, hb, doneStateAfter, Binding.state, BindingState.code]
      rw [hrun]
      exact goesFreeTail_complete (by rw [hb]; rfl) .done [0]
    · have hrun : unreserveAddress a s = { state := s.setBinding a (.bound h l false p), status := .done, data := [3] } := by
        simp [unreserveAddress, hb, doneStateAfter, Binding.state, BindingState.code]
      rw [hrun]
      exact rewrites_complete (fun _ => rfl) .done [3] []
    · have hrun : unreserveAddress a s =
          { state := s.setBinding a (.contested h l false p c k), status := .done, data := [5] } := by
        simp [unreserveAddress, hb, doneStateAfter, Binding.state, BindingState.code]
      rw [hrun]
      exact rewrites_complete (fun _ => rfl) .done [5] []
    · have hrun : unreserveAddress a s = { state := s.setBinding a (.offered h .free r), status := .done, data := [2] } := by
        simp [unreserveAddress, hb, doneStateAfter, Binding.state, BindingState.code]
      rw [hrun]
      exact rewrites_complete (fun hc => by rw [hb] at hc; cases hc) .done [2] []
  · have hexec := exec_command modifyParams? modifyAddress h hx (row := .modify) rfl
    refine ⟨fun h l v p hb => ?_, fun r hb => ?_,
      fun h1 h2 => by rw [hexec, modifyAddress_failed h1 h2, State.complete_failed]⟩
    · intro after granted
      have hafter : after = choice.onLease n l := by cases choice <;> rfl
      clear_value after
      subst hafter
      have hrun : modifyAddress (a, c, choice, n, tag) s =
          { state := s.setBinding a (.bound { h with cls := c, tag := tag } (choice.onLease n l) v p), status := .done,
            data := [3, c, leaseKindCode (choice.onLease n l).kind] ++ le16 (choice.onLease n l).grantedField,
            granted := granted } := by
        simp [modifyAddress, hb, BindingState.code, granted]
      refine ⟨_, hexec, ?_⟩
      rw [hrun]
      exact rewrites_complete (fun _ => rfl) .done _ _
    · intro after
      have hafter : after = choice.onKind r.kind := by cases choice <;> rfl
      clear_value after
      subst hafter
      have hrun : modifyAddress (a, c, choice, n, tag) s =
          { state := s.setBinding a (.reserved ⟨r.identity, c, tag, choice.onKind r.kind⟩), status := .done,
            data := [1, c, leaseKindCode (choice.onKind r.kind), 0, 0] } := by
        simp [modifyAddress, hb, BindingState.code, le16]
      refine ⟨_, hexec, ?_⟩
      rw [hrun]
      exact rewrites_complete (fun hc => by rw [hb] at hc; cases hc) .done _ []

end Sys2Proof.Machine
end

section
/-! PROOFS. EVICT (R91) and RESOLVE-CONTEST (R120 to R122). -/

namespace Sys2Proof.Machine

/-! ### An expulsion and a withdrawal, completed -/

section
variable {s y : State} {a : Addr} {h : Holder}

/-- A command that expelled the holder, and then touched no record, completes (R76, R91, R122). -/
theorem expels_complete {z : State} {l : Lease} {v : Bool}
    (hz : movedTo s y z a ((s.expel h l v a).binding a)) (hf : z.freeQueue = (s.expel h l v a).freeQueue)
    (hh : z.holdQueue = (s.expel h l v a).holdQueue) (hg : ∀ k, z.group k = (s.expel h l v a).group k)
    (hp : z.poolFree = (s.expel h l v a).poolFree) (hs : (s.binding a).isBound = true) (status : HostStatus) (data : List Byte) :
    expels s ((y.withoutListingsOf a).replied status data)
      (s.complete { state := z, status := status, data := data }) a h l v := by
  refine expels_of (fun b hb => ?_) (by simp [hf]) (by simp [hh]) (by simp [hg]) (by simp [hp])
  rw [← hb]
  exact hz.complete_unbound hs (State.expel_unbound s a h l v) status data []

/-- A command that withdrew an offer, and then touched no record, completes (R11). -/
theorem revokes_complete {z : State} {o : Origin} (hz : movedTo s y z a ((s.revokeOffer h o a).binding a))
    (hf : z.freeQueue = (s.revokeOffer h o a).freeQueue) (hh : z.holdQueue = (s.revokeOffer h o a).holdQueue)
    (hg : ∀ k, z.group k = (s.revokeOffer h o a).group k) (hp : z.poolFree = (s.revokeOffer h o a).poolFree)
    (hs : (s.binding a).isBound = false) (status : HostStatus) (data : List Byte) :
    revokes s (y.replied status data) (s.complete { state := z, status := status, data := data }) a h o := by
  refine revokes_of (fun b hb => ?_) (by simp [hf]) (by simp [hh]) (by simp [hg]) (by simp [hp])
  rw [← hb]
  exact hz.complete (by simp [hs]) status data []

/-- A command that made a hold anonymous completes (R9). -/
theorem becomesAnonymous_complete {z : State} {r : Countdown} (hb : s.binding a = .held (some h) r)
    (hz : movedTo s y z a (.held none r)) (hf : z.freeQueue = s.freeQueue) (hh : z.holdQueue = s.holdQueue)
    (hg : ∀ k, z.group k = (s.makeAnonymous a).group k) (hp : z.poolFree = (s.makeAnonymous a).poolFree)
    (status : HostStatus) (data : List Byte) :
    becomesAnonymous s (y.replied status data) (s.complete { state := z, status := status, data := data }) a r := by
  have hanon := State.makeAnonymous_of hb
  refine ⟨hz.complete (by simp [hb, Binding.isBound]) status data [], by simp [hf], by simp [hh], fun k => ?_, ?_⟩
  · simp [hg, hanon]
  · simp [hp, hanon, State.entriesOf]

end

/-! ### EVICT -/

section
variable {s : State} {a : Addr}

/-- An address with nothing to end (R91). -/
theorem evictAddress_failed (h : s.binding a = .free ∨ (s.binding a).state = .reserved) :
    evictAddress a s = failed .wrongState s := by
  rcases h with h | h
  · simp [evictAddress, h]
  · cases hb : s.binding a <;> simp [evictAddress, hb, Binding.state] at h ⊢

/-- A command that moved one binding and reports its states before and after (R91). -/
theorem evicted_eq (t : State) {before after : Byte} (hs : (s.binding a).state.code = before)
    (ht : (t.binding a).state.code = after) :
    evicted a s t = { state := t, status := .done, data := [before, after] } := by
  rw [evicted, hs, ht]

end

/-- Settles O44: each state of the binding ends in its own way. -/
theorem evictEndsWhatStands : Obligations.EvictEndsWhatStands := by
  intro s ps a h hx after
  have hexec := exec_command addrParam? evictAddress h hx (row := .evict) rfl
  obtain ⟨-, -, -, -, hanon, -, hexpel, -, hrevoke, -⟩ := movedTo_entries s a
  refine ⟨fun h l v p hb => ⟨_, hexec, ?_⟩, fun h l v p c k hb => ⟨_, hexec, ?_⟩, fun h o r hb => ⟨_, hexec, ?_⟩,
    fun h r hb => ⟨_, hexec, ?_⟩, fun r hb => ?_, fun hb => by rw [hexec, evictAddress_failed hb, State.complete_failed]⟩
  · have hrun : evictAddress a s =
        { state := (s.expel h l v a).sendVacate a h.identity h.segment .evicted, status := .done, data := [3, after v] } := by
      simp only [evictAddress, hb]
      exact evicted_eq _ (by rw [hb]; rfl) (by simpa [after] using State.expel_code s a h l v)
    rw [hrun]
    exact expels_complete ((hexpel h l v).sendVacate a h.identity h.segment .evicted) (by simp) (by simp) (by simp) (by simp)
      (by rw [hb]; rfl) .done _
  · have hrun : evictAddress a s =
        { state := ((s.expel h l v a).sendVacate a h.identity h.segment .evicted).sendVacate a c.identity c.segment .evicted,
          status := .done, data := [5, after v] } := by
      simp only [evictAddress, hb]
      exact evicted_eq _ (by rw [hb]; rfl) (by simpa [after] using State.expel_code s a h l v)
    rw [hrun]
    exact expels_complete (((hexpel h l v).sendVacate a h.identity h.segment .evicted).sendVacate a c.identity c.segment .evicted)
      (by simp) (by simp) (by simp) (by simp) (by rw [hb]; rfl) .done _
  · have hrun : evictAddress a s = evicted a s (s.revokeOffer h o a) := by simp only [evictAddress, hb]
    have hcode := State.revoke_code s a h o
    have hdata : ∀ {code : Byte}, ((s.revokeOffer h o a).binding a).state.code = code →
        revokes s (s.replied .done [2, code]) (s.complete (evictAddress a s)) a h o := by
      intro code hc
      rw [hrun, evicted_eq _ (by rw [hb]) hc]
      exact revokes_complete (hrevoke h o) rfl rfl (fun _ => rfl) rfl (by rw [hb]; rfl) .done _
    cases o with
    | free => exact hdata hcode
    | held => exact hdata hcode
    | reserved k => exact hdata hcode
  · have hstate : (s.makeAnonymous a).binding a = .held none r := by simp [State.makeAnonymous_of hb]
    have hrun : evictAddress a s = { state := s.makeAnonymous a, status := .done, data := [4, 4] } := by
      simp only [evictAddress, hb]
      exact evicted_eq _ (by rw [hb]; rfl) (by rw [hstate]; rfl)
    rw [hrun]
    rw [hstate] at hanon
    exact becomesAnonymous_complete hb hanon (by simp [State.makeAnonymous_of hb]) (by simp [State.makeAnonymous_of hb])
      (fun _ => rfl) rfl .done _
  · have hsame : s.makeAnonymous a = s := State.makeAnonymous_same (fun h r => by rw [hb]; simp)
    have hrun : evictAddress a s = { state := s, status := .done, data := [4, 4] } := by
      simp only [evictAddress, hb, hsame]
      exact evicted_eq _ (by rw [hb]; rfl) (by rw [hb]; rfl)
    rw [hexec, hrun, State.complete_same]

/-! ### RESOLVE-CONTEST -/

theorem resolveContest_failed {s : State} {a : Addr} {keep : Keep} (h : (s.binding a).state ≠ .contested) :
    resolveContest (a, keep) s = failed .wrongState s := by
  cases hb : s.binding a <;> simp [resolveContest, hb, Binding.state] at h ⊢

/-- Settles O45: the keeper is granted a fresh lease, and a loser is told. -/
theorem resolveContestSettles : Obligations.ResolveContestSettles := by
  intro s ps a keep h hx
  have hexec := exec_command resolveContestParams? resolveContest h hx (row := .resolveContest) rfl
  obtain ⟨-, -, -, -, -, -, hexpel, -, -, -, hincumbent, hchallenger, -⟩ := movedTo_entries s a
  refine ⟨fun hn => by rw [hexec, resolveContest_failed hn, State.complete_failed], fun h l v p c k hb => ⟨?_, ?_, ?_⟩⟩
  · rintro rfl
    refine ⟨_, hexec, ?_⟩
    have hrun : resolveContest (a, .incumbent) s =
        { state := (s.keepIncumbent h l v a).sendVacate a c.identity c.segment .contestLost, status := .done,
          data := 3 :: identityBytes h.identity, granted := [a] } := by
      simp [resolveContest, hb, settled, fieldBytes, Binding.state, BindingState.code]
    rw [hrun, ← State.keeperLease_eq]
    refine ⟨((hincumbent h l v).sendVacate a c.identity c.segment .contestLost).complete (fun _ => rfl) .done _ [a],
      ⟨?_, ?_⟩, ?_, ?_⟩ <;> simp [State.keepIncumbent, State.enterBound]
  · rintro rfl
    refine ⟨_, hexec, ?_⟩
    have hrun : resolveContest (a, .challenger) s =
        { state := (s.keepChallenger c l v a).sendVacate a h.identity h.segment .contestLost, status := .done,
          data := 3 :: identityBytes c.identity, granted := [a] } := by
      simp [resolveContest, hb, settled, fieldBytes, Binding.state, BindingState.code]
    rw [hrun, ← State.keeperLease_eq]
    refine ⟨((hchallenger c l v).sendVacate a h.identity h.segment .contestLost).complete (fun _ => rfl) .done _ [a],
      ⟨?_, ?_⟩, ?_, ?_⟩ <;> simp [State.keepChallenger, State.enterBound, State.entriesOf]
  · rintro rfl after
    refine ⟨_, hexec, ?_⟩
    have hrun : resolveContest (a, .neither) s =
        { state := ((s.expel h l v a).sendVacate a h.identity h.segment .contestLost).sendVacate a c.identity c.segment
            .contestLost, status := .done, data := [after, 0, 0, 0, 0, 0, 0], granted := [a] } := by
      have hcode := State.expel_code s a h l v
      simp [resolveContest, hb, settled, fieldBytes, zeros, hcode, after]
    rw [hrun]
    have hm := ((hexpel h l v).sendVacate a h.identity h.segment .contestLost).sendVacate a c.identity c.segment .contestLost
    refine expels_of (fun b hbind => ?_) (by simp) (by simp) (by simp) (by simp)
    rw [← hbind]
    refine moves_granted ?_ (hm.complete_unbound (by rw [hb]; rfl) (State.expel_unbound s a h l v) .done _ [a])
    rw [hb, State.expel_state]
    split
    · simp [Binding.record]
    · split <;> simp [Binding.record]

end Sys2Proof.Machine
end

section
/-! PROOFS. APPROVE, DENY and UNBAR (R71, R72, R74). -/

namespace Sys2Proof.Machine

/-- Elements whose images stand once in a list are told apart by them. -/
theorem eq_of_nodup_map {α β : Type} {f : α → β} {l : List α} (hn : (l.map f).Nodup) {x y : α} (hx : x ∈ l) (hy : y ∈ l)
    (hxy : f x = f y) : x = y := by
  induction l with
  | nil => cases hx
  | cons z l ih =>
    obtain ⟨hz, hn⟩ := List.nodup_cons.mp hn
    rcases List.mem_cons.mp hx with hxz | hxl <;> rcases List.mem_cons.mp hy with hyz | hyl
    · exact hxz.trans hyz.symm
    · exact absurd (List.mem_map.mpr ⟨y, hyl, by rw [← hxy, hxz]⟩) hz
    · exact absurd (List.mem_map.mpr ⟨x, hxl, by rw [hxy, hyz]⟩) hz
    · exact ih hn hxl hyl

section
variable {s : State} {x : Identity} {e : AdmissionEntry} {a : Addr}

/-! ### The admission entry of an identity -/

theorem State.entryOf_none (hn : ∀ e ∈ s.admission, e.identity ≠ x) : s.entryOf x = none := by
  simpa [State.entryOf] using hn

/-- An identity has one entry (R69). -/
theorem State.entryOf_of_mem (hnodup : (s.admission.map (·.identity)).Nodup) (he : e ∈ s.admission) (hx : e.identity = x) :
    s.entryOf x = some e := by
  cases hfind : s.entryOf x with
  | none => exact absurd hx (by simpa using List.find?_eq_none.mp hfind e he)
  | some d =>
    have hd : d.identity = x := by simpa using List.find?_some hfind
    exact congrArg some (eq_of_nodup_map hnodup (List.mem_of_find?_eq_some hfind) he (hd.trans hx.symm))

theorem State.hasEntry_iff : s.hasEntry x = true ↔ ∃ e ∈ s.admission, e.identity = x := by simp [State.hasEntry]

/-! ### APPROVE -/

theorem Phase.isRunning_iff {p : Phase} : p.isRunning = true ↔ p = .running := by cases p <;> simp [Phase.isRunning]

/-- APPROVE by its tests, in the order of R71. -/
theorem approve_eq (hp : s.phase = .running) (he : s.entryOf x = some e) :
    approve x s = if s.policy.offerLimit ≤ s.offeredCount then failed .limit s else offerFromEntry e s := by
  simp [approve, Phase.isRunning_iff.mpr hp, he, State.atOfferLimit]

/-- An offer made by a command, which completes (R10, R69). -/
theorem offers_complete {z : State} {h : Holder} {o : Origin} (hz : movedTo s (s.removeEntry h.identity) z a
      (.offered h o (Countdown.fresh s.policy.offerWindow)))
    (hk : (s.binding a).isBound = false) (hf : z.freeQueue = dropAddr a s.freeQueue)
    (hh : z.holdQueue = dropAddr a s.holdQueue) (status : HostStatus) (data : List Byte) :
    offers s (s.replied status data) (s.complete { state := z, status := status, data := data }) a h o :=
  ⟨hz.complete (by simp [hk]) status data [], by simp [hf], by simp [hh]⟩

/-- The offer of the own address, as the entry asks for it (R61, R71). -/
theorem offerFromEntry_own {o : Origin} (hk : (s.binding a).isBound = false) (hown : s.ownAddr e.identity = some (a, o)) :
    offers s (s.replied .done [addrByte a, BitVec.ofNat 8 s.policy.offerWindow]) (s.complete (offerFromEntry e s)) a
        ⟨e.identity, e.cls, e.tag, e.segment⟩ o
      ∧ membershipsKept s (s.complete (offerFromEntry e s)) := by
  have hrun : offerFromEntry e s =
      { state := s.makeOffer ⟨e.identity, e.cls, e.tag, e.segment⟩ o a, status := .done,
        data := [addrByte a, BitVec.ofNat 8 s.policy.offerWindow] } := by
    simp [offerFromEntry, hown, approved]
  rw [hrun]
  refine ⟨offers_complete ((movedTo_offers s a ⟨e.identity, e.cls, e.tag, e.segment⟩).1 o) hk ?_ ?_ .done _, ?_⟩
  · simp [State.makeOffer]
  · simp [State.makeOffer]
  · simp [membershipsKept]

/-- The offer of the address R24 chooses, made anonymous before it is offered (R24, R71). -/
theorem offerFromEntry_newcomer (hk : (s.binding a).isBound = false) (hown : s.ownAddr e.identity = none)
    (ha : s.newcomerAddr = some a) :
    offers s (s.replied .done [addrByte a, BitVec.ofNat 8 s.policy.offerWindow]) (s.complete (offerFromEntry e s)) a
        ⟨e.identity, e.cls, e.tag, e.segment⟩ .free
      ∧ (s.complete (offerFromEntry e s)).groups = (s.makeAnonymous a).groups
      ∧ (s.complete (offerFromEntry e s)).poolFree = (s.makeAnonymous a).poolFree := by
  have hrun : offerFromEntry e s =
      { state := s.offerNewcomer ⟨e.identity, e.cls, e.tag, e.segment⟩ a, status := .done,
        data := [addrByte a, BitVec.ofNat 8 s.policy.offerWindow] } := by
    simp [offerFromEntry, hown, ha, approved]
  rw [hrun]
  refine ⟨offers_complete (movedTo_offers s a ⟨e.identity, e.cls, e.tag, e.segment⟩).2 hk ?_ ?_ .done _, ?_, ?_⟩ <;>
    simp [State.offerNewcomer, State.makeOffer]

end

/-- Settles O46: the tests of R71 in their order, and the address ASK would choose. -/
theorem approveMakesAnOffer : Obligations.ApproveMakesAnOffer := by
  intro s ps x h hx
  have hexec := exec_command identityParam? approve h hx (row := .approve) rfl
  refine ⟨fun hp => ?_, fun hp hn => ?_, fun e hp he hid hlaw => ?_⟩
  · have hrun : approve x s = failed .wrongPhase s := by
      simp [approve, Bool.eq_false_iff.mpr (fun hc => hp (Phase.isRunning_iff.mp hc))]
    rw [hexec, hrun, State.complete_failed]
  · have hrun : approve x s = failed .noSuch s := by
      simp [approve, Phase.isRunning_iff.mpr hp, State.entryOf_none hn]
    rw [hexec, hrun, State.complete_failed]
  · obtain ⟨hst, ⟨-, hnodup, -⟩, -⟩ := hlaw
    intro offer holder
    subst hid
    rw [approve_eq hp (State.entryOf_of_mem hnodup he rfl)] at hexec
    refine ⟨fun hlim => by rw [hexec, if_pos hlim, State.complete_failed], fun hlim => ?_⟩
    rw [if_neg (Nat.not_le.mpr hlim)] at hexec
    refine ⟨fun a r hb hr => ⟨_, hexec, offerFromEntry_own (by rw [hb]; rfl) (State.ownAddr_reserved hst hb hr)⟩,
      fun hn => ?_⟩
    have hown := State.ownAddr_nowhere hn
    refine ⟨fun a q hq hb => ?_, fun a q former r hq hq' hb => ?_, fun a q r hq hq' hb => ?_, fun hq hq' => ?_⟩
    · obtain ⟨hoffer, hgroups, hpool⟩ := offerFromEntry_newcomer (a := a) (by rw [hb]; rfl) hown
        (by simp [State.newcomerAddr, hq])
      rw [State.makeAnonymous_same (by simp [hb])] at hgroups hpool
      exact ⟨_, hexec, hoffer, hgroups, hpool⟩
    · obtain ⟨hoffer, hgroups, hpool⟩ := offerFromEntry_newcomer (a := a) (by rw [hb]; rfl) hown
        (by simp [State.newcomerAddr, hq, hq'])
      have hanon := State.makeAnonymous_of hb
      refine ⟨_, hexec, hoffer, fun g => ?_, hpool.trans (by simp [hanon, State.entriesOf])⟩
      have hgroup : (s.complete (offerFromEntry e s)).group g = (s.makeAnonymous a).group g := by simp [State.group, hgroups]
      rw [hgroup, hanon]
      simp
    · obtain ⟨hoffer, hgroups, hpool⟩ := offerFromEntry_newcomer (a := a) (by rw [hb]; rfl) hown
        (by simp [State.newcomerAddr, hq, hq'])
      rw [State.makeAnonymous_same (by simp [hb])] at hgroups hpool
      exact ⟨_, hexec, hoffer, hgroups, hpool⟩
    · have hnone : s.newcomerAddr = none := by simp [State.newcomerAddr, hq, hq']
      have hrun : offerFromEntry e s = failed .noRoom s := by simp [offerFromEntry, hown, hnone]
      rw [hexec, hrun, State.complete_failed]

/-! ### DENY and UNBAR -/

/-- An element put into a list is one element more. -/
theorem insertBefore_perm {α : Type} (p : α → Bool) (x : α) (q : List α) : (insertBefore p x q).Perm (x :: q) := by
  induction q with
  | nil => exact .refl _
  | cons z q ih =>
    unfold insertBefore
    split
    · exact .refl _
    · exact (ih.cons z).trans (.swap x z q)

/-- Settles O47: the two sets are edited, and nothing else. -/
theorem denyAndUnbarEditTheSets : Obligations.DenyAndUnbarEditTheSets := by
  intro s ps x
  refine ⟨fun bar h hx => ?_, fun h hx => ?_⟩
  · have hexec := exec_command denyParams? deny h hx (row := .deny) rfl
    refine ⟨fun hn => ?_, fun he => ?_⟩
    · have hno : s.hasEntry x = false :=
        Bool.eq_false_iff.mpr (fun hc => let ⟨e, hm, hid⟩ := State.hasEntry_iff.mp hc; hn e hm hid)
      have hrun : deny (x, bar) s = failed .noSuch s := by simp [deny, hno]
      rw [hexec, hrun, State.complete_failed]
    · intro entries
      have hyes := State.hasEntry_iff.mpr he
      refine ⟨?_, ?_, ?_⟩
      · rintro rfl
        have hrun : deny (x, false) s = { state := s.removeEntry x, status := .done } := by simp [deny, hyes]
        rw [hexec, hrun, State.complete_quiet]
        · rfl
        all_goals exact fun _ => rfl
      · rintro rfl hfull
        have hrun : deny (x, true) s = failed .noRoom s := by simp [deny, hyes, Config.barredPlaces, hfull]
        rw [hexec, hrun, State.complete_failed]
      · rintro rfl hroom hnew
        have hb : s.isBarred x = false := Bool.eq_false_iff.mpr (fun hc => hnew (isBarred_iff.mp hc))
        have hrun : deny (x, true) s = { state := (s.addBarred x).removeEntry x, status := .done } := by
          simp [deny, hyes, Config.barredPlaces, Nat.not_le.mpr hroom]
        rw [hrun, State.addBarred_new hb, State.complete_quiet] at hexec
        · exact ⟨_, hexec, rfl, insertBefore_perm _ _ _⟩
        all_goals exact fun _ => rfl
  · have hexec := exec_command identityParam? unbar h hx (row := .unbar) rfl
    refine ⟨fun hno => ?_, fun hb => ?_⟩
    · have hrun : unbar x s = failed .noSuch s := by
        simp [unbar, Bool.eq_false_iff.mpr (fun hc => hno (isBarred_iff.mp hc))]
      rw [hexec, hrun, State.complete_failed]
    · have hrun : unbar x s =
          { state := { s with barred := s.barred.filter (fun y => decide (y ≠ x)) }, status := .done } := by
        simp [unbar, isBarred_iff.mpr hb]
      rw [hexec, hrun, State.complete_quiet]
      all_goals exact fun _ => rfl

end Sys2Proof.Machine
end

section
/-! PROOFS. BAR (R75, R76): the two sets it edits go apart from the binding it ends. -/

namespace Sys2Proof.Machine

/-! ### The admission queue and the barred set stand apart from the records -/

/-- The state with this admission queue and this barred set. -/
def State.withSets (entries : List AdmissionEntry) (barred : List Identity) (s : State) : State :=
  { s with admission := entries, barred := barred }

section
variable (q : List AdmissionEntry) (bs : List Identity) {s : State} {x : Identity} {a : Addr}

@[simp] theorem State.withSets_keeps (s : State) :
    (s.withSets q bs).freeQueue = s.freeQueue ∧ (s.withSets q bs).holdQueue = s.holdQueue
      ∧ (s.withSets q bs).groups = s.groups ∧ (s.withSets q bs).poolFree = s.poolFree
      ∧ (s.withSets q bs).policy = s.policy ∧ (s.withSets q bs).generation = s.generation
      ∧ (s.withSets q bs).marks = s.marks ∧ (∀ c, (s.withSets q bs).binding c = s.binding c)
      ∧ (∀ g, (s.withSets q bs).group g = s.group g) :=
  ⟨rfl, rfl, rfl, rfl, rfl, rfl, rfl, fun _ => rfl, fun _ => rfl⟩

theorem State.handNotice_withSets (seg : Segment) (f : Frame) (s : State) :
    (s.withSets q bs).handNotice seg f = (s.handNotice seg f).withSets q bs := by
  have hl : (s.withSets q bs).line seg = s.line seg := State.line_eq rfl rfl seg
  unfold State.handNotice
  rw [hl]
  dsimp only
  split
  · cases seg <;> rfl
  · rfl

theorem State.goHeldAnonymous_withSets (a : Addr) (s : State) :
    (s.withSets q bs).goHeldAnonymous a = (s.goHeldAnonymous a).withSets q bs := by
  by_cases hz : s.policy.holdPeriod = 0
  · simp only [State.goHeldAnonymous, State.withSets_keeps, hz, if_true]; rfl
  · simp only [State.goHeldAnonymous, State.withSets_keeps, hz, if_false]; rfl

theorem State.expel_withSets (h : Holder) (l : Lease) (v : Bool) (a : Addr) (s : State) :
    (s.withSets q bs).expel h l v a = (s.expel h l v a).withSets q bs := by
  cases v with
  | true => rfl
  | false => exact s.goHeldAnonymous_withSets q bs a

theorem State.revokeOffer_withSets (h : Holder) (o : Origin) (a : Addr) (s : State) :
    (s.withSets q bs).revokeOffer h o a = (s.revokeOffer h o a).withSets q bs := by
  cases o with
  | held => exact s.goHeldAnonymous_withSets q bs a
  | free | reserved _ => rfl

/-- What BAR does to the binding does not depend on the two sets. -/
theorem State.barBinding_withSets (x : Identity) (a : Addr) (s : State) :
    (s.withSets q bs).barBinding x a = (s.barBinding x a).withSets q bs := by
  have hb : (s.withSets q bs).binding a = s.binding a := rfl
  cases h : s.binding a with
  | offered k o r => simp only [State.barBinding, hb, h, State.revokeOffer_withSets]
  | bound k l v p => simp only [State.barBinding, hb, h, State.sendVacate, State.expel_withSets, State.handNotice_withSets]
  | contested k l v p c r =>
    simp only [State.barBinding, hb, h]
    split
    · exact State.handNotice_withSets q bs _ _ (s.keepChallenger c l v a)
    · exact State.handNotice_withSets q bs _ _ (s.keepIncumbent k l v a)
  | held o r =>
    simp only [State.barBinding, State.makeAnonymous, hb, h]
    cases o <;> rfl
  | free | reserved _ => simp only [State.barBinding, hb, h]

theorem State.withoutListingsOf_withSets (a : Addr) (s : State) :
    (s.withSets q bs).withoutListingsOf a = (s.withoutListingsOf a).withSets q bs := by
  have hline : ∀ k (t : State), (t.withSets q bs).line k = t.line k := fun k t => State.line_eq rfl rfl k
  have hlisting : ∀ k (t : State), (t.withSets q bs).listing k = t.listing k := fun k t => State.listing_eq rfl rfl k
  have hl : ∀ k, ((s.withSets q bs).withoutListingsOf a).line k = (s.withoutListingsOf a).line k := by
    intro k
    rw [(State.withoutListingsOf_units a _ k).1, (State.withoutListingsOf_units a s k).1, hline, hlisting]
  have hk : ∀ k, ((s.withSets q bs).withoutListingsOf a).listing k = (s.withoutListingsOf a).listing k := by
    intro k
    rw [(State.withoutListingsOf_units a _ k).2, (State.withoutListingsOf_units a s k).2, hlisting]
  apply State.ext_fields <;> simp [hl, hk, hline, hlisting] <;> simp [State.withSets]

/-- A move goes with the edit of the two sets. -/
theorem movedTo.withSets {y z : State} {b : Binding} (h : movedTo s y z a b) :
    movedTo s (y.withSets q bs) (z.withSets q bs) a b := by
  obtain ⟨hfields, hb, ho, hg, hm⟩ := h
  refine ⟨?_, hb, ho, hg, hm⟩
  rw [hfields]
  rfl

end

/-! ### The binding the identity stands in -/

section
variable {s : State} {x : Identity} {a : Addr}

/-- The two sets after BAR of an identity that was not barred (R75). -/
theorem State.barring_eq {t : State} (hx : x ∉ t.barred) : t.barring x =
    t.withSets (t.admission.filter (fun e => decide (e.identity ≠ x)))
      (insertBefore (fun y => decide (identityKey x < identityKey y)) x t.barred) := by
  rw [State.barring, State.addBarred_new (Bool.eq_false_iff.mpr (fun hc => hx (isBarred_iff.mp hc)))]
  rfl

/-- BAR of an identity that stands at `a` (R75, R76). -/
theorem barIdentity_at (hs : s.IdentitiesStandOnce) (hx : x ∉ s.barred) (hroom : s.barred.length < 16)
    (ha : x ∈ (s.binding a).parties) : barIdentity x s =
      { state := (s.barring x).barBinding x a, status := .done, data := [addrByte a],
        granted := if (s.binding a).state = .contested then [a] else [] } := by
  have hb : s.isBarred x = false := Bool.eq_false_iff.mpr (fun hc => hx (isBarred_iff.mp hc))
  have hfind : (s.barring x).findBinding (Binding.stands x) = some a := by
    rw [State.barring_eq hx]
    exact State.findBinding_stands (s := s) hs ha
  have hstate : (s.barring x).binding a = s.binding a := by rw [State.barring_eq hx]; rfl
  unfold State.barring at *
  simp [barIdentity, hb, Config.barredPlaces, Nat.not_le.mpr hroom, hfind, barIdentity.grantedAt, hstate]

/-- BAR of an identity that stands nowhere. -/
theorem barIdentity_nowhere (hx : x ∉ s.barred) (hroom : s.barred.length < 16) (hn : ∀ a, x ∉ (s.binding a).parties) :
    barIdentity x s = { state := s.barring x, status := .done, data := [0] } := by
  have hb : s.isBarred x = false := Bool.eq_false_iff.mpr (fun hc => hx (isBarred_iff.mp hc))
  have hfind : (s.barring x).findBinding (Binding.stands x) = none := by
    rw [State.barring_eq hx]
    exact State.findBinding_stands_none (s := s) hn
  unfold State.barring at *
  simp [barIdentity, hb, Config.barredPlaces, Nat.not_le.mpr hroom, hfind]

/-- BAR of a barred identity names its reservation, or 0 (R75). -/
theorem barIdentity_again (hs : s.IdentitiesStandOnce) (hx : x ∈ s.barred) :
    (∀ a r, s.binding a = .reserved r → r.identity = x →
        barIdentity x s = { state := s, status := .done, data := [addrByte a] })
      ∧ ((∀ a r, s.binding a = .reserved r → r.identity ≠ x) →
        barIdentity x s = { state := s, status := .done, data := [0] }) := by
  refine ⟨fun a r hb hr => ?_, fun hn => ?_⟩
  · have hfind : s.findBinding (isReservedFor x) = some a := by
      rw [search_at hs (a := a) (by simp [hb, Binding.parties, hr]) (.inl rfl), hb]
      simp [isReservedFor, hr]
    simp [barIdentity, isBarred_iff.mpr hx, reservedAddress, hfind]
  · have hfind : s.findBinding (isReservedFor x) = none := by
      refine State.findBinding_none (fun a => ?_)
      cases hb : s.binding a with
      | reserved r => simp [isReservedFor, hn a r hb]
      | free | offered _ _ _ | bound _ _ _ _ | held _ _ | contested _ _ _ _ _ _ => simp [isReservedFor]
    simp [barIdentity, isBarred_iff.mpr hx, reservedAddress, hfind]

/-- BAR writes the two sets of any state that has those of `s`. -/
theorem State.barring_of {t : State} (hx : x ∉ s.barred) (hb : t.barred = s.barred) (hq : t.admission = s.admission) :
    t.barring x = t.withSets (s.admission.filter (fun e => decide (e.identity ≠ x)))
      (insertBefore (fun y => decide (identityKey x < identityKey y)) x s.barred) := by
  rw [State.barring_eq (by rw [hb]; exact hx), hb, hq]

/-- What BAR comes to where the identity stands: the binding is ended, and the two sets are edited. -/
theorem exec_bar_at {ps : List Byte} (h : s.executing 0x33 ps) (hp : identityParam? ps = some x) (hs : s.IdentitiesStandOnce)
    (hx : x ∉ s.barred) (hroom : s.barred.length < 16) (ha : x ∈ (s.binding a).parties) :
    exec .bar s = .next (s.complete
      { state := (s.barBinding x a).withSets (s.admission.filter (fun e => decide (e.identity ≠ x)))
          (insertBefore (fun y => decide (identityKey x < identityKey y)) x s.barred),
        status := .done, data := [addrByte a], granted := if (s.binding a).state = .contested then [a] else [] }) := by
  rw [exec_command identityParam? barIdentity h hp (row := .bar) rfl, barIdentity_at hs hx hroom ha, State.barring_eq hx,
    State.barBinding_withSets]

end

/-- Settles O48: by the state of the binding the identity stands in. -/
theorem barEndsTheStanding : Obligations.BarEndsTheStanding := by
  intro s ps x h hp hs
  have hexec := exec_command identityParam? barIdentity h hp (row := .bar) rfl
  refine ⟨fun hx => ?_, fun hx hfull => ?_, fun hx hroom => ?_⟩
  · obtain ⟨hreserved, hnone⟩ := barIdentity_again hs hx
    refine ⟨fun a r hb hr => ?_, fun hn => ?_⟩
    · rw [hexec, hreserved a r hb hr, State.complete_same]
    · rw [hexec, hnone hn, State.complete_same]
  · have hrun : barIdentity x s = failed .noRoom s := by
      simp [barIdentity, Bool.eq_false_iff.mpr (fun hc => hx (isBarred_iff.mp hc)), Config.barredPlaces, hfull]
    rw [hexec, hrun, State.complete_failed]
  · intro u
    refine ⟨?_, fun hn => ?_, fun a r hb hr => ?_, fun a k o r hb hk => ?_, fun a k l v p hb hk => ?_, fun a k r hb hk => ?_,
      fun a k l v p c r hb => ⟨fun hk => ?_, fun hc => ?_⟩⟩
    · rw [State.barring_of hx rfl rfl]
      exact insertBefore_perm _ _ _
    · rw [hexec, barIdentity_nowhere hx hroom hn, State.complete_quiet]
      all_goals rw [State.barring_eq hx]; exact fun _ => rfl
    · have hparty : x ∈ (s.binding a).parties := by simp [hb, Binding.parties, hr]
      have hrun : s.barBinding x a = s := by simp only [State.barBinding, hb]
      rw [exec_bar_at h hp hs hx hroom hparty, hrun, hb, if_neg (by simp [Binding.state]), State.complete_quiet,
        ← State.barring_of hx rfl rfl]
      all_goals exact fun _ => rfl
    · have hparty : x ∈ (s.binding a).parties := by simp [hb, Binding.parties, hk]
      have hrun : s.barBinding x a = s.revokeOffer k o a := by simp only [State.barBinding, hb]
      obtain ⟨-, -, -, -, -, -, -, -, hrevoke, -⟩ := movedTo_entries s a
      refine ⟨_, exec_bar_at h hp hs hx hroom hparty, ?_⟩
      rw [hrun, hb, if_neg (by simp [Binding.state])]
      show revokes s ((s.barring x).replied .done [addrByte a]) _ a k o
      rw [State.barring_of hx rfl rfl]
      exact revokes_complete ((hrevoke k o).withSets _ _) (by simp) (by simp) (by simp) (by simp) (by rw [hb]; rfl) .done _
    · have hparty : x ∈ (s.binding a).parties := by simp [hb, Binding.parties, hk]
      have hrun : s.barBinding x a = (s.expel k l v a).sendVacate a x k.segment .barred := by
        simp only [State.barBinding, hb, hk]
      obtain ⟨-, -, -, -, -, -, hexpel, -⟩ := movedTo_entries s a
      refine ⟨_, exec_bar_at h hp hs hx hroom hparty, ?_⟩
      rw [hrun, hb, if_neg (by simp [Binding.state])]
      show expels s ((((s.sendVacate a x k.segment .barred).withoutListingsOf a).barring x).replied .done [addrByte a]) _ a k l v
      rw [State.barring_of hx (by simp) (by simp), ← State.withoutListingsOf_withSets]
      exact expels_complete (((hexpel k l v).sendVacate a x k.segment .barred).withSets _ _) (by simp) (by simp) (by simp)
        (by simp) (by rw [hb]; rfl) .done _
    · have hparty : x ∈ (s.binding a).parties := by simp [hb, Binding.parties, hk]
      have hanon := State.makeAnonymous_of hb
      have hrun : s.barBinding x a = s.makeAnonymous a := by simp only [State.barBinding, hb]
      obtain ⟨-, -, -, -, hmoved, -⟩ := movedTo_entries s a
      rw [show (s.makeAnonymous a).binding a = .held none r by simp [hanon]] at hmoved
      refine ⟨_, exec_bar_at h hp hs hx hroom hparty, ?_⟩
      rw [hrun, hb, if_neg (by simp [Binding.state])]
      show becomesAnonymous s ((s.barring x).replied .done [addrByte a]) _ a r
      rw [State.barring_of hx rfl rfl]
      exact becomesAnonymous_complete hb (hmoved.withSets _ _) (by simp [hanon]) (by simp [hanon]) (by simp) (by simp)
        .done _
    · have hparty : x ∈ (s.binding a).parties := by simp [hb, Binding.parties, hk]
      have hrun : s.barBinding x a = (s.keepChallenger c l v a).sendVacate a x k.segment .barred := by
        simp only [State.barBinding, hb, hk, if_true]
      obtain ⟨-, -, -, -, -, -, -, -, -, -, -, hkeep, -⟩ := movedTo_entries s a
      refine ⟨_, exec_bar_at h hp hs hx hroom hparty, ?_⟩
      rw [hrun, if_pos (by rw [hb]; rfl), ← State.keeperLease_eq]
      show moves s (((s.sendVacate a x k.segment .barred).barring x).replied .done [addrByte a]) _ a _ _ ∧ _
      rw [State.barring_of hx (by simp) (by simp)]
      refine ⟨(((hkeep c l v).sendVacate a x k.segment .barred).withSets _ _).complete (fun _ => rfl) .done _ _,
        ⟨?_, ?_⟩, ?_, ?_⟩ <;> simp [State.keepChallenger, State.enterBound, State.entriesOf]
    · have hparty : x ∈ (s.binding a).parties := by simp [hb, Binding.parties, hc]
      have hne : k.identity ≠ x := by
        have hnodup := (hs.1 a).1
        rw [hb] at hnodup
        simpa [Binding.parties, hc] using hnodup
      have hrun : s.barBinding x a = (s.keepIncumbent k l v a).sendVacate a x c.segment .barred := by
        simp only [State.barBinding, hb, hne, if_false, hc]
      obtain ⟨-, -, -, -, -, -, -, -, -, -, hkeep, -⟩ := movedTo_entries s a
      refine ⟨_, exec_bar_at h hp hs hx hroom hparty, ?_⟩
      rw [hrun, if_pos (by rw [hb]; rfl), ← State.keeperLease_eq]
      show moves s (((s.sendVacate a x c.segment .barred).barring x).replied .done [addrByte a]) _ a _ _ ∧ _
      rw [State.barring_of hx (by simp) (by simp)]
      refine ⟨(((hkeep k l v).sendVacate a x c.segment .barred).withSets _ _).complete (fun _ => rfl) .done _ _,
        ⟨?_, ?_⟩, ?_, ?_⟩ <;> simp [State.keepIncumbent, State.enterBound]

end Sys2Proof.Machine
end

section
/-! PROOFS. OPEN-GROUP, CLOSE-GROUP and ADD-MEMBER (R144, R145, R149), and the attention unit's commands (R191, R193). -/

namespace Sys2Proof.Machine

/-! ### A notice for all goes by the lines alone (R49) -/

/-- What the broadcast leaves of lines and factors depends on the lines and the factors alone. -/
theorem State.broadcast_congr {s t : State} (f : Frame) (hl : ∀ k, s.line k = t.line k) (he : s.events = t.events) :
    (∀ k, (s.broadcast f).line k = (t.broadcast f).line k) ∧ (s.broadcast f).events = (t.broadcast f).events := by
  have henabled : ∀ k, s.enabled k = t.enabled k := fun k => by rw [State.enabled, State.enabled, hl]
  have hfirst : (∀ k, (if s.enabled .a then s.handNotice .a f else s).line k
        = (if t.enabled .a then t.handNotice .a f else t).line k)
      ∧ (if s.enabled .a then s.handNotice .a f else s).events = (if t.enabled .a then t.handNotice .a f else t).events := by
    rw [henabled]
    split
    · exact State.handNotice_congr .a f hl he
    · exact ⟨hl, he⟩
  unfold State.broadcast
  dsimp only
  rw [henabled .b]
  split
  · exact State.handNotice_congr .b f hfirst.1 hfirst.2
  · exact hfirst

/-! ### A host command that changed one group -/

section
variable {s y z : State} {g : GroupNo} {r : GroupRecord}

/-- A command that changed the record of one group, and no binding, completes. -/
theorem regroups_complete (hz : z = { y with groups := z.groups, poolFree := z.poolFree })
    (hb : ∀ c, y.binding c = s.binding c) (hgen : y.generation = s.generation) (hmarks : y.marks = s.marks)
    (hg : z.group g = r) (ho : ∀ k, k ≠ g → z.group k = s.group k) (status : HostStatus) (data : List Byte) :
    regroups s (y.replied status data) (s.complete { state := z, status := status, data := data }) g r := by
  have hzb : ∀ c, z.binding c = s.binding c := fun c => by rw [hz]; exact hb c
  have hzgen : z.generation = s.generation := by rw [hz]; exact hgen
  have hzmarks : z.marks = s.marks := by rw [hz]; exact hmarks
  refine ⟨?_, by simpa using hg, fun k hk => by simpa using ho k hk, ?_⟩
  · rw [State.complete_eq, commit_of_bound (fun c hc => by rw [hzb]; exact hc), hz]
    rfl
  · rw [State.complete_eq]
    exact counted_of_commit (s0 := s) (x := z) (fun _ => rfl) (fun _ => rfl) (by simp [State.replied])
      (by simp [State.replied]) hzgen hzmarks (by simp [State.replied]) (by simp [State.replied])

/-- The record of one group is all that changed, as its members are those it had (R25). -/
theorem changedRecords_group (hb : ∀ c, z.binding c = s.binding c) (hk : ∀ k, k ≠ g → z.group k = s.group k)
    (hm : (z.group g).members = (s.group g).members) :
    changedRecords s z [] = if (s.group g).record ≠ (z.group g).record then [.group g] else [] := by
  have hmembers : ∀ k, (z.group k).members = (s.group k).members := by
    intro k
    by_cases h : k = g
    · rw [h, hm]
    · rw [hk k h]
  have haddrs : allAddrs.filter (bindingChanged s z []) = [] := by
    simp [bindingChanged, hb, State.groupsOf, hmembers]
  have hgroups : allGroups.filter (groupChanged s z) = if groupChanged s z g then [g] else [] :=
    filter_only nodup_allGroups (mem_allGroups g) (fun k h => by simp [groupChanged, hk k h])
  rw [changedRecords, haddrs, hgroups]
  by_cases hr : (s.group g).record = (z.group g).record <;> simp [groupChanged, hr]

theorem setGroup_ne (k : GroupNo) (hk : k ≠ g) : (s.setGroup g r).group k = s.group k := State.group_setGroup_ne hk r s

end

/-! ### OPEN-GROUP and CLOSE-GROUP -/

section
variable {s : State} {g : GroupNo} {limit : Nat} {p : JoinPolicy}

/-- An UNUSED group is opened with an empty list, which is a record change of the group (R144). -/
theorem openGroup_opens (hg : s.group g = .unused) :
    let t := s.complete { state := s.setGroup g (.opened limit p []), status := .done, data := openGroupBytes limit p 0 }
    regroups s (s.replied .done (openGroupBytes limit p 0)) t g (.opened limit p []) ∧ t.poolFree = s.poolFree
      ∧ t.generation = nextGeneration s.generation ∧ t.marks = putMark (.group g) s.marks := by
  intro t
  have hregroups : regroups s (s.replied .done (openGroupBytes limit p 0)) t g (.opened limit p []) :=
    regroups_complete rfl (fun _ => rfl) rfl rfl (by simp) setGroup_ne .done _
  have hchanged : changedRecords s t [] = [.group g] := by
    rw [changedRecords_group (g := g) (by simp [t]) (fun k hk => by simp [t, hk]) (by simp [t, hg, GroupRecord.members])]
    simp [t, hg, GroupRecord.record]
  obtain ⟨-, -, -, hgen, hmarks⟩ := id hregroups
  rw [hchanged] at hgen hmarks
  exact ⟨hregroups, by simp [t], hgen, hmarks⟩

/-- Limit and policy of an OPEN group are replaced, which is no record change (R144). -/
theorem openGroup_replaces {was : Nat} {policy : JoinPolicy} {m : List Addr} (hg : s.group g = .opened was policy m)
    (status : HostStatus) (data : List Byte) :
    s.complete { state := s.setGroup g (.opened limit p m), status := status, data := data } =
      { s.replied status data with groups := s.groups.set g.val (.opened limit p m) } := by
  have hsame : ∀ c, (s.setGroup g (.opened limit p m)).binding c = s.binding c := fun _ => rfl
  have hchanged : changedRecords s (s.setGroup g (.opened limit p m)) [] = [] := by
    rw [changedRecords_group hsame setGroup_ne (by simp [hg, GroupRecord.members])]
    simp [hg, GroupRecord.record]
  rw [State.complete_eq, commit_of_bound (fun c h => by rw [hsame]; exact h), hchanged]
  rfl

/-- CLOSE-GROUP returns the entries of the members and announces it (R145). -/
theorem closeGroup_closes {m : List Addr} (status : HostStatus) (data : List Byte) :
    let t := s.complete
      { state := ({ s.setGroup g .unused with poolFree := s.poolFree + m.length } : State).broadcast (groupClosedNotice g)
        status := status, data := data }
    regroups s ((s.broadcast (groupClosedNotice g)).replied status data) t g .unused ∧ t.poolFree = s.poolFree + m.length := by
  intro t
  obtain ⟨hlines, hevents⟩ := State.broadcast_congr (groupClosedNotice g)
    (s := { s.setGroup g .unused with poolFree := s.poolFree + m.length }) (t := s) (fun k => State.line_eq rfl rfl k) rfl
  have hgroup : ∀ k, (({ s.setGroup g .unused with poolFree := s.poolFree + m.length } : State).broadcast
      (groupClosedNotice g)).group k = (s.setGroup g .unused).group k := fun k => by simp [State.group]
  refine ⟨regroups_complete ?_ (by simp) (by simp) (by simp) ((hgroup g).trans (State.group_setGroup_self ..))
    (fun k hk => (hgroup k).trans (State.group_setGroup_ne hk ..)) status data, by simp [t]⟩
  apply State.ext_fields
  case h13 => exact fun k => (hlines k).trans (State.line_eq rfl rfl k)
  case h14 => exact fun k => State.listing_eq (by simp [State.setGroup]) (by simp [State.setGroup]) k
  case h16 => exact hevents
  all_goals simp [State.setGroup]

end

/-! ### ADD-MEMBER -/

section
variable {s : State} {g : GroupNo} {limit : Nat} {p : JoinPolicy} {m : List Addr} {a : Addr}

theorem addMember_refused (hg : s.group g = .opened limit p m) :
    ((s.binding a).isBound = false → addMember (g, a) s = failed .wrongState s)
      ∧ ((s.binding a).isBound = true →
        (a ∈ m → addMember (g, a) s = { state := s, status := .done, data := [BitVec.ofNat 8 m.length] })
        ∧ (a ∉ m → limit ≤ m.length → addMember (g, a) s = failed .limit s)
        ∧ (a ∉ m → m.length < limit → s.poolFree = 0 → addMember (g, a) s = failed .noRoom s)) := by
  refine ⟨fun hb => ?_, fun hb => ⟨fun ha => ?_, fun ha hfull => ?_, fun ha hroom hpool => ?_⟩⟩
  · simp [addMember, hg, hb]
  · simp [addMember, hg, hb, ha]
  · simp [addMember, hg, hb, ha, hfull]
  · simp [addMember, hg, hb, ha, Nat.not_le.mpr hroom, hpool]

theorem addMember_appends (hg : s.group g = .opened limit p m) (hb : (s.binding a).isBound = true) (ha : a ∉ m)
    (hroom : m.length < limit) (hpool : s.poolFree ≠ 0) : addMember (g, a) s =
      { state := s.appendMember g limit p m a, status := .done, data := [BitVec.ofNat 8 (m.length + 1)] } := by
  simp [addMember, hg, hb, ha, Nat.not_le.mpr hroom, hpool]

end

/-- Settles O49: the tests in their order, and what a group opened, closed or joined comes to. -/
theorem openCloseAndAddToGroups : Obligations.OpenCloseAndAddToGroups := by
  refine ⟨fun s ps g => ⟨fun limit p h hx => ?_, fun h hx => ?_⟩, fun s ps g a h hx => ?_⟩
  · have hexec := exec_command openGroupParams? openGroup h hx (row := .openGroup) rfl
    refine ⟨fun hg => ⟨_, hexec, ?_⟩, fun was policy m hg => ⟨fun hlim => ?_, fun hlim => ?_⟩⟩
    · have hrun : openGroup (g, limit, p) s =
          { state := s.setGroup g (.opened limit p []), status := .done, data := openGroupBytes limit p 0 } := by
        simp [openGroup, hg]
      rw [hrun]
      exact openGroup_opens hg
    · have hrun : openGroup (g, limit, p) s = failed .limit s := by simp [openGroup, hg, hlim]
      rw [hexec, hrun, State.complete_failed]
    · have hrun : openGroup (g, limit, p) s =
          { state := s.setGroup g (.opened limit p m), status := .done, data := openGroupBytes limit p m.length } := by
        simp [openGroup, hg, Nat.not_lt.mpr hlim]
      rw [hexec, hrun, openGroup_replaces hg]
      rfl
  · have hexec := exec_command groupParam? closeGroup h hx (row := .closeGroup) rfl
    refine ⟨fun hg => ?_, fun limit p m hg => ⟨_, hexec, ?_⟩⟩
    · have hrun : closeGroup g s = failed .wrongState s := by simp [closeGroup, hg]
      rw [hexec, hrun, State.complete_failed]
    · have hrun : closeGroup g s =
          { state := ({ s.setGroup g .unused with poolFree := s.poolFree + m.length } : State).broadcast (groupClosedNotice g)
            status := .done, data := [BitVec.ofNat 8 m.length] } := by
        simp [closeGroup, hg]
      rw [hrun]
      exact closeGroup_closes .done _
  · have hexec := exec_command memberParams? addMember h hx (row := .addMember) rfl
    refine ⟨fun hg => ?_, fun limit p m hg => ?_⟩
    · have hrun : addMember (g, a) s = failed .wrongState s := by simp [addMember, hg]
      rw [hexec, hrun, State.complete_failed]
    · obtain ⟨hunbound, hbound⟩ := addMember_refused (a := a) hg
      refine ⟨fun hb => by rw [hexec, hunbound hb, State.complete_failed], fun hb => ?_⟩
      obtain ⟨hmember, hlimit, hpool⟩ := hbound hb
      refine ⟨fun ha => by rw [hexec, hmember ha, State.complete_same],
        fun ha hfull => by rw [hexec, hlimit ha hfull, State.complete_failed],
        fun ha hroom hempty => by rw [hexec, hpool ha hroom hempty, State.complete_failed],
        fun ha hroom hsome => ⟨_, hexec, ?_⟩⟩
      rw [addMember_appends hg hb ha hroom hsome]
      have hothers : ∀ k, k ≠ g → (s.appendMember g limit p m a).group k = s.group k := fun k hk => by simp [hk]
      exact ⟨regroups_complete rfl (fun _ => rfl) rfl rfl (by simp) hothers .done _, by simp⟩

/-! ### COLLECT, CLEAR-FACTORS and SET-ENABLES -/

/-- An event factor stays when it is not named (R191). -/
theorem State.factor_cleared (s : State) (named : BitVec 12) (f : Factor) :
    ({ s with events := s.events &&& ~~~(named.extractLsb' 0 10) } : State).factor f
      = (s.factor f && !named.getLsbD f.bit) := by
  have hbit : f.bit < 10 := by cases f <;> decide
  simp [State.factor, hbit]

/-- A factor field read back (R191). -/
theorem factorParam?_bytes {ps : List Byte} {f : BitVec 12} (h : factorParam? ps = some f) : factorBytes f = ps := by
  unfold factorParam? at h
  split at h
  · rename_i lo hi
    unfold factorFieldOf? at h
    split at h
    · rename_i hhi
      cases h
      have hlo := lo.isLt
      have hnat : (BitVec.ofNat 12 (fromLe16 lo hi)).toNat = fromLe16 lo hi := by
        rw [BitVec.toNat_ofNat, Nat.mod_eq_of_lt]
        unfold fromLe16
        omega
      rw [factorBytes, hnat, le16_fromLe16]
    · cases h
  · cases h

/-- Settles O51: marks, event factors and enables each stand in one field of the state. -/
theorem attentionCommandsActOnTheFactors : Obligations.AttentionCommandsActOnTheFactors := by
  intro s ps
  refine ⟨fun h taken left hmarks hlen => ?_, fun named h hx => ?_, fun enables h hx => ?_⟩
  · have hfirst : taken.length = Config.collectMarks ∨ (taken.length ≤ Config.collectMarks ∧ left = []) := by
      rw [hmarks, List.length_append] at hlen
      rw [← List.length_eq_zero_iff, Config.collectMarks]
      omega
    have hsplit : s.marks.take Config.collectMarks = taken ∧ s.marks.drop Config.collectMarks = left := by
      rw [hmarks]
      rcases hfirst with hall | ⟨hfew, rfl⟩
      · exact ⟨List.take_left' hall, List.drop_left' hall⟩
      · simp [List.take_of_length_le hfew, List.drop_of_length_le hfew]
    obtain ⟨htake, hdrop⟩ := hsplit
    rw [exec_command noParams? collect h rfl (row := .collect) rfl, collect_completed]
    simp only [collect, htake, hdrop]
  · refine ⟨_, exec_command factorParam? clearFactors h hx (row := .clearFactors) rfl, ?_⟩
    rw [clearFactors, State.complete_quiet]
    · exact ⟨rfl, State.factor_cleared s named⟩
    all_goals exact fun _ => rfl
  · rw [exec_command factorParam? setEnables h hx (row := .setEnables) rfl, setEnables, State.complete_quiet,
      factorParam?_bytes hx]
    all_goals exact fun _ => rfl

end Sys2Proof.Machine
end

section
/-! PROOFS. CLEAR (R29, R69, R137, R154). -/

namespace Sys2Proof.Machine

section
variable {s : State} (kr kg : Bool)

/-- A reserved binding keeps its reservation when reservations are kept (R29). -/
theorem Binding.cleared_reserved {b : Binding} {r : Reservation} (h : b.reservation? = some r) : b.cleared true = .reserved r := by
  simp [Binding.cleared, h]

/-- A binding that is not reserved has no reservation to keep (R29). -/
theorem Binding.reservation?_none {b : Binding} (h : b.reservedYes = false) : b.reservation? = none := by
  cases b with
  | offered k o r => cases o <;> simp_all [Binding.reservation?, Binding.reservedYes]
  | bound k l v p => cases v <;> simp_all [Binding.reservation?, Binding.reservedYes]
  | contested k l v p c r => cases v <;> simp_all [Binding.reservation?, Binding.reservedYes]
  | free | reserved _ | held _ _ => simp_all [Binding.reservation?, Binding.reservedYes]

/-- Every other binding goes to FREE (R29). -/
theorem Binding.cleared_free {b : Binding} (h : kr = false ∨ b.reservedYes = false) : b.cleared kr = .free := by
  rcases h with rfl | h
  · unfold Binding.cleared
    split <;> rfl
  · simp [Binding.cleared, Binding.reservation?_none h]

/-- The listings are abandoned by CLEAR itself, and nothing is left for the end of its application to abandon. -/
theorem commit_clearTable : commit s [] (s.clearTable kr kg) =
    (s.clearTable kr kg).recordChanges (changedRecords s (s.clearTable kr kg) []) := by
  unfold commit
  rfl

end

/-- Settles O40: the listings end with the command itself, so that its application counts the records alone. -/
theorem clearEmptiesTheTable : Obligations.ClearEmptiesTheTable := by
  intro s ps kr kg h hx
  have hexec := exec_command clearParams? clearDirectory h hx (row := .clear) rfl
  refine ⟨fun hp => ?_, fun hp => ?_⟩
  · have hrun : clearDirectory (kr, kg) s = failed .wrongPhase s := by
      cases hph : s.phase <;> simp_all [clearDirectory, Phase.isStopped]
    rw [hexec, hrun, State.complete_failed]
  · have hrun : clearDirectory (kr, kg) s =
        { state := s.clearTable kr kg, status := .done,
          data := BitVec.ofNat 8 (changedRecords s (s.clearTable kr kg) []).length
            :: le32 ((s.clearTable kr kg).recordChanges (changedRecords s (s.clearTable kr kg) [])).generation } := by
      simp [clearDirectory, hp, Phase.isStopped]
    rw [hrun] at hexec
    refine ⟨_, hexec, ?_⟩
    rw [State.complete_eq, commit_clearTable]
    generalize hc : changedRecords s (s.clearTable kr kg) [] = changed
    have hchanged : changedRecords s (((s.clearTable kr kg).recordChanges changed).replied .done
        (BitVec.ofNat 8 changed.length :: le32 ((s.clearTable kr kg).recordChanges changed).generation)) [] = changed := by
      rw [← hc]
      exact changedRecords_congr (fun _ => rfl) (fun _ => rfl) (fun _ => rfl) (fun _ => rfl)
    rw [hchanged]
    refine ⟨rfl, ⟨?_, ?_⟩, fun a r hkr hr => ?_, fun a ha => ?_, fun g hg => ?_, fun g limit p m hg => ?_⟩
    · rw [hchanged]; rfl
    · rw [hchanged]; rfl
    · rw [hkr]; exact (State.binding_clearTable true kg s a).trans (Binding.cleared_reserved hr)
    · exact (State.binding_clearTable kr kg s a).trans (Binding.cleared_free kr ha)
    · refine (State.group_clearTable kr kg s g).trans ?_
      rw [hg]; rfl
    · refine (State.group_clearTable kr kg s g).trans ?_
      rw [hg]; rfl

end Sys2Proof.Machine
end

section
/-! PROOFS. STOP (R80, R102), and the offers START withdraws (R11, R100). -/

namespace Sys2Proof.Machine

/-! ### STOP -/

section
variable {s : State}

/-- A count is no part of what counts as the record (R25). -/
theorem Binding.record_stopTimers (b : Binding) : b.stopTimers.record = b.record := by
  cases b with
  | bound h l v p => cases l <;> rfl
  | contested h l v p c k => cases l <;> rfl
  | free | reserved _ | offered _ _ _ | held _ _ => rfl

theorem Binding.isBound_stopTimers (b : Binding) : b.stopTimers.isBound = b.isBound := by cases b <;> rfl

/-- An application that changed no record and unbound nothing counts nothing (R25). -/
theorem commit_same_records {x : State} (hb : ∀ a, (x.binding a).record = (s.binding a).record)
    (hk : ∀ a, (x.binding a).isBound = (s.binding a).isBound) (hg : ∀ g, x.group g = s.group g) : commit s [] x = x := by
  rw [commit_of_bound (fun a h => by rw [hk]; exact h),
    changedRecords_congr (s' := s) (t' := s) (fun _ => rfl) (fun _ => rfl) hb hg, changedRecords_self, State.recordChanges_nil]

theorem stopDirectory_stopped (hp : s.phase = .stopped) : stopDirectory () s = failed .wrongPhase s := by
  simp [stopDirectory, hp, Phase.isStopped]

/-- STOP in RECALL or RUNNING (R102). -/
theorem stopDirectory_stops (hp : s.phase ≠ .stopped) : s.complete (stopDirectory () s) =
    ((({ s.stopTimers with phase := .stopped } : State).endListing .a).endListing .b).replied .done [0x00] := by
  have hstop : s.phase.isStopped = false := by cases h : s.phase <;> simp_all [Phase.isStopped]
  have hbind : ∀ a, ((({ s.stopTimers with phase := .stopped } : State).endListing .a).endListing .b).binding a
      = (s.binding a).stopTimers := s.binding_stopTimers
  simp only [stopDirectory, hstop, Bool.false_eq_true, if_false]
  rw [State.complete_eq, commit_same_records]
  · rfl
  · exact fun a => by rw [hbind, Binding.record_stopTimers]
  · exact fun a => by rw [hbind, Binding.isBound_stopTimers]
  · exact fun _ => rfl

end

end Sys2Proof.Machine
end

section
/-! PROOFS. The offers that START withdraws, one after the other (R11, R100). -/

namespace Sys2Proof.Machine

/-! ### What a withdrawn offer becomes -/

/-- An offer stands there, of an origin `which` holds of. -/
def Binding.offeredFrom (which : Origin → Bool) : Binding → Bool
  | .offered _ o _ => which o
  | .free | .reserved _ | .bound _ _ _ _ | .held _ _ | .contested _ _ _ _ _ _ => false

/-- What START makes of an offer under a hold period: it returns to its origin (R11, second column). -/
def Binding.withdrawn (period : Nat) : Binding → Binding
  | .offered _ .free _ => .free
  | .offered h .held _ => if period = 0 then .free else .held (some h) (Countdown.fresh period)
  | .offered h (.reserved k) _ => .reserved (h.reservation k)
  | .free => .free
  | .reserved r => .reserved r
  | .bound h l v p => .bound h l v p
  | .held former r => .held former r
  | .contested h l v p c r => .contested h l v p c r

/-- The address goes to the tail of the free queue, as no hold is granted (R8). -/
def Binding.returnsToTail (period : Nat) (b : Binding) : Bool :=
  b.offeredFrom (fun o => decide (o = .held)) && decide (period = 0)

/-- The address goes to the tail of the hold queue. -/
def Binding.returnsToHold (period : Nat) (b : Binding) : Bool :=
  b.offeredFrom (fun o => decide (o = .held)) && decide (period ≠ 0)

/-- Every withdrawal but a return to HELD drops the memberships (R7, R13, R152). -/
def Binding.withdrawalDrops (period : Nat) (b : Binding) : Bool :=
  b.offeredFrom (fun _ => true) && !b.returnsToHold period

/-- Several addresses leave a member list. -/
def GroupRecord.dropAll (l : List Addr) : GroupRecord → GroupRecord
  | .unused => .unused
  | .opened n p m => .opened n p (m.filter (fun a => !l.contains a))

theorem GroupRecord.drop_dropAll (l : List Addr) (a : Addr) (r : GroupRecord) :
    (r.dropAll l).drop a = r.dropAll (l ++ [a]) := by
  cases r with
  | unused => rfl
  | opened n p m =>
    simp only [GroupRecord.dropAll, GroupRecord.drop, dropAddr, List.filter_filter]
    congr 1
    apply List.filter_congr
    intro b _
    by_cases hb : b = a <;> simp [hb]

theorem GroupRecord.dropAll_nil (r : GroupRecord) : r.dropAll [] = r := by
  cases r <;> simp [GroupRecord.dropAll]

/-- `t` is `s` after the offers at the addresses of `l` were withdrawn, in this order. -/
structure State.Withdrawn (s : State) (l : List Addr) (t : State) : Prop where
  frame : t = { s with
    table := t.table, freeQueue := t.freeQueue, holdQueue := t.holdQueue, boundary := t.boundary
    groups := t.groups, poolFree := t.poolFree }
  binding : ∀ a, t.binding a = if a ∈ l then (s.binding a).withdrawn s.policy.holdPeriod else s.binding a
  freeQueue : t.freeQueue = (l.filter (fun a => (s.binding a).offeredFrom Origin.isFree)).reverse ++ s.freeQueue
    ++ l.filter (fun a => (s.binding a).returnsToTail s.policy.holdPeriod)
  holdQueue : t.holdQueue = s.holdQueue ++ l.filter (fun a => (s.binding a).returnsToHold s.policy.holdPeriod)
  group : ∀ g, t.group g = (s.group g).dropAll (l.filter (fun a => (s.binding a).withdrawalDrops s.policy.holdPeriod))
  poolFree : t.poolFree = s.poolFree
    + ((l.filter (fun a => (s.binding a).withdrawalDrops s.policy.holdPeriod)).map s.entriesOf).sum

section
variable {s t : State} {l : List Addr} {a : Addr}

theorem State.Withdrawn.start (s : State) : s.Withdrawn [] s :=
  ⟨rfl, by simp, by simp, by simp, by simp [GroupRecord.dropAll_nil], by simp⟩

/-- An address that was not withdrawn has the memberships it had. -/
theorem State.Withdrawn.entriesOf (h : s.Withdrawn l t) (ha : a ∉ l) : t.entriesOf a = s.entriesOf a := by
  unfold State.entriesOf
  congr 1
  apply List.map_congr_left
  intro g _
  rw [h.group]
  cases s.group g with
  | unused => rfl
  | opened n p m => exact List.count_filter (by simp [ha])

/-- The queues of a withdrawn state hold no offered address, as those of the state before do not. -/
theorem State.Withdrawn.not_queued (h : s.Withdrawn l t) (ha : a ∉ l) (hf : a ∉ s.freeQueue) (hh : a ∉ s.holdQueue) :
    dropAddr a t.freeQueue = t.freeQueue ∧ dropAddr a t.holdQueue = t.holdQueue := by
  constructor
  · exact dropAddr_of_not_mem (by rw [h.freeQueue]; simp [ha, hf])
  · exact dropAddr_of_not_mem (by rw [h.holdQueue]; simp [ha, hh])

/-- What the return of an offer leaves of the records, where the address stands in neither queue (R7, R8, R13). -/
theorem State.returnOffer_records {k : Holder} {r : Countdown} (o : Origin) (hf : dropAddr a t.freeQueue = t.freeQueue)
    (hh : dropAddr a t.holdQueue = t.holdQueue) :
    let b := Binding.offered k o r
    let u := t.returnOffer k o .head false a
    u.binding a = b.withdrawn t.policy.holdPeriod
      ∧ u.freeQueue = (if b.offeredFrom Origin.isFree then [a] else []) ++ t.freeQueue
        ++ (if b.returnsToTail t.policy.holdPeriod then [a] else [])
      ∧ u.holdQueue = t.holdQueue ++ (if b.returnsToHold t.policy.holdPeriod then [a] else [])
      ∧ (∀ g, u.group g = if b.withdrawalDrops t.policy.holdPeriod then (t.group g).drop a else t.group g)
      ∧ u.poolFree = t.poolFree + if b.withdrawalDrops t.policy.holdPeriod then t.entriesOf a else 0 := by
  intro b u
  cases o with
  | free =>
    obtain ⟨hgroups, hpool⟩ := State.goFree_drops .head a t
    refine ⟨?_, ?_, ?_, fun g => (hgroups g).trans ?_, hpool.trans ?_⟩ <;>
      simp [u, b, State.returnOffer, Binding.withdrawn, Binding.offeredFrom, Binding.returnsToTail, Binding.returnsToHold,
        Binding.withdrawalDrops, Origin.isFree, hf, hh]
  | reserved k =>
    obtain ⟨⟨hgroups, hpool⟩, hfree, hhold⟩ := State.goReserved_drops (Holder.reservation ‹_› k) a t
    refine ⟨?_, hfree.trans ?_, hhold.trans ?_, fun g => (hgroups g).trans ?_, hpool.trans ?_⟩ <;>
      simp [u, b, State.returnOffer, Binding.withdrawn, Binding.offeredFrom, Binding.returnsToTail, Binding.returnsToHold,
        Binding.withdrawalDrops, Origin.isFree, hf, hh]
  | held =>
    by_cases hz : t.policy.holdPeriod = 0
    · obtain ⟨hgroups, hpool⟩ := State.goFree_drops .tail a t
      refine ⟨?_, ?_, ?_, fun g => ?_, ?_⟩ <;>
        simp [u, b, State.returnOffer, State.goHeldWith, tailPlace, Binding.withdrawn, Binding.offeredFrom,
          Binding.returnsToTail, Binding.returnsToHold, Binding.withdrawalDrops, Origin.isFree, hf, hh, hz, hgroups, hpool]
    · obtain ⟨hfree, hhold⟩ := State.enterHold_queues (some k) a t
      refine ⟨?_, ?_, ?_, fun g => ?_, ?_⟩ <;>
        simp [u, b, State.returnOffer, State.goHeldWith, Binding.withdrawn, Binding.offeredFrom,
          Binding.returnsToTail, Binding.returnsToHold, Binding.withdrawalDrops, Origin.isFree, hf, hh, hz, hfree, hhold]

/-- One more offer is withdrawn. -/
theorem State.Withdrawn.returnOffer {k : Holder} {o : Origin} {r : Countdown} (h : s.Withdrawn l t) (ha : a ∉ l)
    (hb : s.binding a = .offered k o r) (hf : a ∉ s.freeQueue) (hh : a ∉ s.holdQueue) :
    s.Withdrawn (l ++ [a]) (t.returnOffer k o .head false a) := by
  obtain ⟨-, -, -, -, -, -, -, hmoved, -⟩ := movedTo_entries t a
  obtain ⟨hframe, -, hothers, -, -⟩ := hmoved k o .head false
  obtain ⟨hfree, hhold⟩ := h.not_queued ha hf hh
  have hpolicy : t.policy = s.policy := by rw [h.frame]
  obtain ⟨hbind, hfreeq, hholdq, hgroup, hpool⟩ := State.returnOffer_records (k := k) (r := r) o hfree hhold
  rw [hpolicy, ← hb] at hbind hfreeq hholdq hpool
  simp only [hpolicy, ← hb] at hgroup
  refine ⟨hframe.trans (congrArg (fun u : State => { u with
    table := (t.returnOffer k o .head false a).table, freeQueue := (t.returnOffer k o .head false a).freeQueue,
    holdQueue := (t.returnOffer k o .head false a).holdQueue, boundary := (t.returnOffer k o .head false a).boundary,
    groups := (t.returnOffer k o .head false a).groups, poolFree := (t.returnOffer k o .head false a).poolFree }) h.frame),
    fun c => ?_, hfreeq.trans ?_, hholdq.trans ?_, fun g => (hgroup g).trans ?_, hpool.trans ?_⟩
  · by_cases hc : c = a
    · rw [hc, hbind]
      simp
    · rw [hothers c hc, h.binding]
      simp [hc]
  · rw [h.freeQueue]
    by_cases h1 : (s.binding a).offeredFrom Origin.isFree <;>
      by_cases h2 : (s.binding a).returnsToTail s.policy.holdPeriod <;> simp [h1, h2]
  · rw [h.holdQueue]
    by_cases h1 : (s.binding a).returnsToHold s.policy.holdPeriod <;> simp [h1]
  · rw [h.group]
    by_cases h1 : (s.binding a).withdrawalDrops s.policy.holdPeriod <;> simp [h1, GroupRecord.drop_dropAll]
  · rw [h.poolFree, h.entriesOf ha]
    by_cases h1 : (s.binding a).withdrawalDrops s.policy.holdPeriod <;> simp [h1, Nat.add_assoc]

/-! ### One pass over the addresses -/

theorem Binding.offeredFrom_eq {which : Origin → Bool} {b : Binding} (h : b.offeredFrom which = true) :
    ∃ k o r, b = .offered k o r ∧ which o = true := by
  cases b with
  | offered k o r => exact ⟨k, o, r, rfl, h⟩
  | free | reserved _ | bound _ _ _ _ | held _ _ | contested _ _ _ _ _ _ => cases h

/-- What a withdrawn offer becomes is no offer. -/
theorem Binding.offeredFrom_withdrawn (which : Origin → Bool) (n : Nat) (b : Binding) :
    (b.withdrawn n).offeredFrom which = false := by
  cases b with
  | offered k o r =>
    cases o with
    | held => by_cases hz : n = 0 <;> simp [Binding.withdrawn, Binding.offeredFrom, hz]
    | free | reserved _ => rfl
  | free | reserved _ | bound _ _ _ _ | held _ _ | contested _ _ _ _ _ _ => rfl

/-- Where no offer of such an origin stands, START withdraws none. -/
theorem State.withdrawOffer_same {which : Origin → Bool} (h : (t.binding a).offeredFrom which = false) :
    t.withdrawOffer which a = t := by
  unfold State.withdrawOffer
  split
  · rename_i k o r hb
    have hno : which o = false := by simpa [hb, Binding.offeredFrom] using h
    rw [hno]
    rfl
  all_goals rfl

/-- A pass over addresses with no withdrawn one among them withdraws the offers of such an origin there (R100). -/
theorem State.Withdrawn.pass {which : Origin → Bool} (m : List Addr) :
    ∀ {l : List Addr} {t : State}, s.Withdrawn l t → m.Nodup →
      (∀ a, (s.binding a).state = .offered → a ∉ s.freeQueue ∧ a ∉ s.holdQueue) →
      (∀ a ∈ m, (s.binding a).offeredFrom which = true → a ∉ l) →
      s.Withdrawn (l ++ m.filter (fun a => (s.binding a).offeredFrom which))
        (m.foldl (fun t a => t.withdrawOffer which a) t) := by
  induction m with
  | nil => exact fun h _ _ _ => by simpa using h
  | cons a m ih =>
    intro l t h hm hq hnew
    obtain ⟨ham, hm⟩ := List.nodup_cons.mp hm
    rw [List.foldl_cons]
    cases hact : (s.binding a).offeredFrom which with
    | true =>
      obtain ⟨k, o, r, hb, ho⟩ := Binding.offeredFrom_eq hact
      have hal : a ∉ l := hnew a (by simp) hact
      obtain ⟨hf, hh⟩ := hq a (by rw [hb]; rfl)
      have htb : t.binding a = .offered k o r := by rw [h.binding, if_neg hal, hb]
      have hstep : t.withdrawOffer which a = t.returnOffer k o .head false a := by
        simp only [State.withdrawOffer, htb, ho, if_true]
      have hrest := ih (h.returnOffer hal hb hf hh) hm hq (fun c hc hcw => by
        have hca : c ≠ a := fun he => ham (he ▸ hc)
        simpa [hca] using hnew c (by simp [hc]) hcw)
      rw [hstep]
      simpa [hact] using hrest
    | false =>
      have hsame : t.withdrawOffer which a = t := by
        refine State.withdrawOffer_same ?_
        rw [h.binding]
        split
        · exact Binding.offeredFrom_withdrawn _ _ _
        · exact hact
      rw [hsame]
      simpa [hact] using ih h hm hq (fun c hc => hnew c (by simp [hc]))

/-- START withdraws the offers of origin FREE in descending order, then the others in ascending order (R100). -/
def State.withdrawals (s : State) : List Addr :=
  allAddrs.reverse.filter (fun a => (s.binding a).offeredFrom Origin.isFree)
    ++ allAddrs.filter (fun a => (s.binding a).offeredFrom (fun o => !o.isFree))

theorem State.withdrawn_withdrawOffers (hq : ∀ a, (s.binding a).state = .offered → a ∉ s.freeQueue ∧ a ∉ s.holdQueue) :
    s.Withdrawn s.withdrawals s.withdrawOffers := by
  have hfirst := (State.Withdrawn.start s).pass (which := Origin.isFree) allAddrs.reverse (List.pairwise_reverse.mpr (nodup_allAddrs.imp Ne.symm)) hq
    (by simp)
  rw [List.nil_append] at hfirst
  refine hfirst.pass allAddrs nodup_allAddrs hq (fun a _ ha hmem => ?_)
  obtain ⟨k, o, r, hb, ho⟩ := Binding.offeredFrom_eq ha
  have hfree : o.isFree = true := by
    have := (List.mem_filter.mp hmem).2
    rw [hb] at this
    exact this
  rw [hfree] at ho
  cases ho

theorem State.mem_withdrawals : a ∈ s.withdrawals ↔ (s.binding a).state = .offered := by
  unfold State.withdrawals
  rw [List.mem_append, List.mem_filter, List.mem_filter]
  cases hb : s.binding a with
  | offered k o r => cases o <;> simp [Binding.offeredFrom, Origin.isFree, Binding.state, mem_allAddrs]
  | free | reserved _ | bound _ _ _ _ | held _ _ | contested _ _ _ _ _ _ => simp [Binding.offeredFrom, Binding.state]

theorem State.nodup_withdrawals (s : State) : s.withdrawals.Nodup := by
  refine List.nodup_append.mpr ⟨(List.pairwise_reverse.mpr (nodup_allAddrs.imp Ne.symm)).filter _, nodup_allAddrs.filter _, ?_⟩
  rintro a ha _ hb rfl
  have h1 := (List.mem_filter.mp ha).2
  have h2 := (List.mem_filter.mp hb).2
  obtain ⟨k, o, r, hab, ho⟩ := Binding.offeredFrom_eq h1
  rw [hab] at h2
  simp [Binding.offeredFrom, ho] at h2

end

end Sys2Proof.Machine
end

section
/-! PROOFS. START (R99, R100) and STOP (R102). -/

namespace Sys2Proof.Machine

section
variable {s : State} {a : Addr}

/-! ### The withdrawn offers, by what becomes of them -/

/-- Of the withdrawals, those that are no offer of origin FREE stand in ascending order. -/
theorem State.withdrawals_filter (q : Binding → Bool) (hq : ∀ b, q b = true → b.offeredFrom (fun o => !o.isFree) = true) :
    s.withdrawals.filter (fun a => q (s.binding a)) = allAddrs.filter (fun a => q (s.binding a)) := by
  have hfree : ∀ b : Binding, (q b && b.offeredFrom Origin.isFree) = false := by
    intro b
    cases h : q b with
    | false => rfl
    | true =>
      obtain ⟨k, o, r, rfl, ho⟩ := Binding.offeredFrom_eq (hq b h)
      simpa [Binding.offeredFrom] using ho
  have hothers : ∀ b : Binding, (q b && b.offeredFrom (fun o => !o.isFree)) = q b := by
    intro b
    cases h : q b with
    | true => rw [hq b h]; rfl
    | false => rfl
  unfold State.withdrawals
  rw [List.filter_append, List.filter_filter, List.filter_filter]
  simp only [hfree, hothers]
  simp

/-- The offers of origin FREE stand at the head of the free queue in ascending order (R100). -/
theorem State.withdrawals_free : (s.withdrawals.filter (fun a => (s.binding a).offeredFrom Origin.isFree)).reverse
    = allAddrs.filter (fun a => (s.binding a).offeredFrom Origin.isFree) := by
  have hfree : ∀ b : Binding, (b.offeredFrom Origin.isFree && b.offeredFrom (fun o => !o.isFree)) = false := by
    intro b
    cases b with
    | offered k o r => simp [Binding.offeredFrom]
    | free | reserved _ | bound _ _ _ _ | held _ _ | contested _ _ _ _ _ _ => rfl
  unfold State.withdrawals
  rw [List.filter_append, List.filter_filter, List.filter_filter]
  simp only [hfree, Bool.and_self]
  simp [List.filter_reverse]

theorem Binding.returnsToTail_others {n : Nat} {b : Binding} (h : b.returnsToTail n = true) :
    b.offeredFrom (fun o => !o.isFree) = true := by
  obtain ⟨h, -⟩ := Bool.and_eq_true_iff.mp h
  obtain ⟨k, o, r, rfl, ho⟩ := Binding.offeredFrom_eq h
  rw [decide_eq_true_eq.mp ho]
  rfl

theorem Binding.returnsToHold_others {n : Nat} {b : Binding} (h : b.returnsToHold n = true) :
    b.offeredFrom (fun o => !o.isFree) = true := by
  obtain ⟨h, -⟩ := Bool.and_eq_true_iff.mp h
  obtain ⟨k, o, r, rfl, ho⟩ := Binding.offeredFrom_eq h
  rw [decide_eq_true_eq.mp ho]
  rfl

theorem Binding.offeredFrom_any {b : Binding} : b.offeredFrom (fun _ => true) = decide (b.state = .offered) := by
  cases b <;> rfl

/-- An offer returns to HELD as the hold period is not 0 (R8). -/
theorem Binding.withdrawn_held {n : Nat} {b : Binding} (h : b.state = .offered) :
    (b.withdrawn n).state = .held ↔ b.returnsToHold n = true := by
  cases b with
  | offered k o r =>
    cases o with
    | held => by_cases hz : n = 0 <;> simp [Binding.withdrawn, Binding.returnsToHold, Binding.offeredFrom, Binding.state, hz]
    | free | reserved _ => simp [Binding.withdrawn, Binding.returnsToHold, Binding.offeredFrom, Binding.state]
  | free | reserved _ | bound _ _ _ _ | held _ _ | contested _ _ _ _ _ _ => cases h

/-- Which addresses leave their groups when START withdraws the offers. -/
theorem State.withdrawals_drop {t : State} (h : s.Withdrawn s.withdrawals t) (a : Addr) :
    (s.binding a).withdrawalDrops s.policy.holdPeriod
      = (decide ((s.binding a).state = .offered) && decide ((t.binding a).state ≠ .held)) := by
  rw [Binding.withdrawalDrops, Binding.offeredFrom_any]
  cases ho : decide ((s.binding a).state = .offered) with
  | false => rfl
  | true =>
    have hoff := of_decide_eq_true ho
    rw [h.binding, if_pos (State.mem_withdrawals.mpr hoff), Bool.true_and, Bool.true_and, Bool.eq_iff_iff]
    simp [Binding.withdrawn_held hoff]

/-- A state whose offers were withdrawn has the lines, the listings and everything else of the state before. -/
theorem State.Withdrawn.fields {l : List Addr} {x : State} (h : s.Withdrawn l x) :
    x.policy = s.policy ∧ x.generation = s.generation ∧ x.marks = s.marks ∧ x.barred = s.barred ∧ x.lineA = s.lineA
      ∧ x.lineB = s.lineB ∧ x.listingA = s.listingA ∧ x.listingB = s.listingB ∧ x.port = s.port ∧ x.events = s.events
      ∧ x.enables = s.enables ∧ x.lastReset = s.lastReset ∧ x.inReset = s.inReset ∧ x.pending = s.pending := by
  refine ⟨?_, ?_, ?_, ?_, ?_, ?_, ?_, ?_, ?_, ?_, ?_, ?_, ?_, ?_⟩ <;> rw [h.frame]

/-- In RECALL everything but the records, the queues and the memberships is as the phase and the notice leave it (R100). -/
theorem State.Withdrawn.enterRecall {l : List Addr} {x : State} (h : s.Withdrawn l x) (w : Nat) (f : Frame) :
    ({ x with phase := .recall ⟨w, false⟩, admission := [] } : State).broadcast f =
      { ({ s with phase := .recall ⟨w, false⟩, admission := [] } : State).broadcast f with
        table := x.table, freeQueue := x.freeQueue, holdQueue := x.holdQueue, boundary := x.boundary
        groups := x.groups, poolFree := x.poolFree } := by
  obtain ⟨hpolicy, hgen, hmarks, hbarred, hlineA, hlineB, hlistA, hlistB, hport, hevents, henables, hlast, hreset, hpending⟩ :=
    h.fields
  obtain ⟨hl, he⟩ := State.broadcast_congr f (s := { x with phase := .recall ⟨w, false⟩, admission := [] })
    (t := { s with phase := .recall ⟨w, false⟩, admission := [] }) (fun k => State.line_eq hlineA hlineB k) hevents
  apply State.ext_fields
  case h13 => exact fun k => (hl k).trans (State.line_eq rfl rfl k)
  case h14 => exact fun k => State.listing_eq (by simp [hlistA]) (by simp [hlistB]) k
  case h16 => exact he
  all_goals simp [hpolicy, hgen, hmarks, hbarred, hport, henables, hlast, hreset, hpending]

/-! ### START -/

theorem startDirectory_cases {w : Nat} :
    (s.phase ≠ .stopped → startDirectory w s = failed .wrongPhase s)
      ∧ (s.phase = .stopped → w = 0 →
        startDirectory w s = { state := { s with phase := .running }, status := .done, data := [0x02] })
      ∧ (s.phase = .stopped → w ≠ 0 →
        startDirectory w s = { state := s.enterRecall w, status := .done, data := [0x01] }) := by
  refine ⟨fun hp => ?_, fun hp hw => ?_, fun hp hw => ?_⟩
  · cases h : s.phase <;> simp_all [startDirectory, Phase.isStopped]
  · simp [startDirectory, hp, hw, Phase.isStopped, phaseByte, Phase.code]
  · simp [startDirectory, hp, hw, Phase.isStopped, phaseByte, Phase.code, State.enterRecall]

/-- An address whose offer is withdrawn stands in neither queue (R19). -/
theorem State.QueuesAgree.offered (hq : s.QueuesAgree) (h : (s.binding a).state = .offered) :
    a ∉ s.freeQueue ∧ a ∉ s.holdQueue := by
  obtain ⟨hf, hh⟩ := hq a
  rw [h, if_neg (by decide)] at hf hh
  exact ⟨List.count_eq_zero.mp hf, List.count_eq_zero.mp hh⟩

/-- START with a window enters RECALL, and completes (R100). -/
theorem applied_recall {x : State} (h : s.Withdrawn s.withdrawals x) (w : Nat) (f : Frame) (status : HostStatus)
    (data : List Byte) :
    applied s ((({ s with phase := .recall ⟨w, false⟩, admission := [] } : State).broadcast f).replied status data)
      (s.complete { state := ({ x with phase := .recall ⟨w, false⟩, admission := [] } : State).broadcast f
                    status := status, data := data }) [] := by
  rw [h.enterRecall w f]
  refine applied_complete rfl (by simp) (by simp) (fun c hc => ?_) status data []
  have hkept : x.binding c = s.binding c := by
    rw [h.binding, if_neg (fun hmem => ?_)]
    have hoff := State.mem_withdrawals.mp hmem
    cases hb : s.binding c <;> simp [hb, Binding.state, Binding.isBound] at hoff hc
  rw [← hkept] at hc
  exact hc

/-- The records and the memberships of a state do not depend on its phase and its admission queue, nor on a notice. -/
theorem State.recall_records (x : State) (w : Nat) (f : Frame) :
    (∀ a, (({ x with phase := .recall ⟨w, false⟩, admission := [] } : State).broadcast f).binding a = x.binding a)
      ∧ ∀ g, (({ x with phase := .recall ⟨w, false⟩, admission := [] } : State).broadcast f).group g = x.group g :=
  ⟨fun a => by simp [State.binding], fun g => by simp [State.group]⟩

/-- The queues after the withdrawals, in the words of R100. -/
theorem State.Withdrawn.queues {x : State} (h : s.Withdrawn s.withdrawals x) :
    let fromFree := allAddrs.filter (fun a => (s.binding a).offeredFrom Origin.isFree)
    let fromHeld := allAddrs.filter (fun a => (s.binding a).offeredFrom (fun o => decide (o = .held)))
    x.freeQueue = fromFree ++ s.freeQueue ++ (if s.policy.holdPeriod = 0 then fromHeld else [])
      ∧ x.holdQueue = s.holdQueue ++ (if s.policy.holdPeriod = 0 then [] else fromHeld) := by
  intro fromFree fromHeld
  rw [h.freeQueue, h.holdQueue, State.withdrawals_free,
    State.withdrawals_filter _ (fun _ => Binding.returnsToTail_others),
    State.withdrawals_filter _ (fun _ => Binding.returnsToHold_others)]
  by_cases hz : s.policy.holdPeriod = 0 <;>
    simp [Binding.returnsToTail, Binding.returnsToHold, hz, fromFree, fromHeld]

/-- The memberships after the withdrawals (R7, R13, R154). -/
theorem State.Withdrawn.memberships {x t : State} (h : s.Withdrawn s.withdrawals x) (hb : ∀ a, t.binding a = x.binding a)
    (hg : ∀ g, t.group g = x.group g) (hp : t.poolFree = x.poolFree) :
    let leaves := fun (a : Addr) => decide ((s.binding a).state = .offered) && decide ((t.binding a).state ≠ .held)
    (∀ g, s.group g = .unused → t.group g = .unused)
      ∧ (∀ g limit p m, s.group g = .opened limit p m → t.group g = .opened limit p (m.filter (fun a => !leaves a)))
      ∧ t.poolFree = s.poolFree + ((allAddrs.filter leaves).map s.entriesOf).sum := by
  intro leaves
  have hleaves : (fun a => (s.binding a).withdrawalDrops s.policy.holdPeriod) = leaves := by
    funext a
    rw [State.withdrawals_drop h, ← hb]
  have hmem : ∀ a, a ∈ s.withdrawals.filter leaves ↔ leaves a = true := by
    intro a
    rw [List.mem_filter, State.mem_withdrawals]
    simp [leaves]
  refine ⟨fun g hu => ?_, fun g limit p m ho => ?_, ?_⟩
  · rw [hg, h.group, hu]
    rfl
  · rw [hg, h.group, ho, hleaves, GroupRecord.dropAll]
    congr 1
    apply List.filter_congr
    intro a _
    rw [Bool.not_inj_iff, Bool.eq_iff_iff, List.contains_iff_mem, hmem]
  · have hperm : (s.withdrawals.filter leaves).Perm (allAddrs.filter leaves) :=
      (List.perm_ext_iff_of_nodup (s.nodup_withdrawals.filter _) (nodup_allAddrs.filter _)).mpr (fun a => by
        rw [hmem, List.mem_filter, and_iff_right (mem_allAddrs a)])
    rw [hp, h.poolFree, hleaves, (hperm.map _).sum_nat]

end

/-- Settles O39: the withdrawals one after the other, and the counts that stand still. -/
theorem startAndStopSetThePhase : Obligations.StartAndStopSetThePhase := by
  refine ⟨fun s ps w h hx => ?_, fun s h => ?_⟩
  · have hexec := exec_command startParam? startDirectory h hx (row := .start) rfl
    obtain ⟨hwrong, hzero, hrecall⟩ := startDirectory_cases (s := s) (w := w)
    refine ⟨fun hp => by rw [hexec, hwrong hp, State.complete_failed], fun hp hw => ?_, fun hp hw hq => ?_⟩
    · rw [hexec, hzero hp hw, State.complete_quiet]
      all_goals exact fun _ => rfl
    · intro fromFree fromHeld period
      have hwithdrawn := State.withdrawn_withdrawOffers (fun a => State.QueuesAgree.offered (a := a) hq)
      rw [hrecall hp hw] at hexec
      have hfromFree : allAddrs.filter (fun a => (s.binding a).offeredFrom Origin.isFree) = fromFree :=
        List.filter_congr (fun a _ => by rcases s.binding a with _ | _ | ⟨_, _ | _ | _, _⟩ | _ | _ | _ <;> rfl)
      have hfromHeld : allAddrs.filter (fun a => (s.binding a).offeredFrom (fun o => decide (o = .held))) = fromHeld :=
        List.filter_congr (fun a _ => by rcases s.binding a with _ | _ | ⟨_, _ | _ | _, _⟩ | _ | _ | _ <;> rfl)
      obtain ⟨-, -, -, -, -, hgroupC, hbindC⟩ := State.complete_keeps s (s.enterRecall w) .done [0x01] []
      obtain ⟨hbindR, hgroupR⟩ := State.recall_records s.withdrawOffers w (recallNotice w)
      have hbind : ∀ a, (s.complete { state := s.enterRecall w, status := .done, data := [0x01] }).binding a
          = s.withdrawOffers.binding a := fun a => (hbindC a).trans (hbindR a)
      have hoffer : ∀ a k o r, s.binding a = .offered k o r →
          (s.complete { state := s.enterRecall w, status := .done, data := [0x01] }).binding a
            = (Binding.offered k o r).withdrawn s.policy.holdPeriod := by
        intro a k o r hb
        rw [hbind, hwithdrawn.binding, if_pos (State.mem_withdrawals.mpr (by rw [hb]; rfl)), hb]
      obtain ⟨hframe, hcounts⟩ := applied_recall hwithdrawn w (recallNotice w) .done [0x01]
      obtain ⟨hfreeq, hholdq⟩ := hwithdrawn.queues
      rw [hfromFree, hfromHeld] at hfreeq
      rw [hfromHeld] at hholdq
      refine ⟨_, hexec, hframe, fun a k r hb => hoffer a k .free r hb, fun a k r hb => hoffer a k .held r hb,
        fun a k o r hb => hoffer a k (.reserved o) r hb, fun a ha => ?_, ?_, ?_, hcounts,
        hwithdrawn.memberships hbind (fun g => ?_) ?_⟩
      · rw [hbind, hwithdrawn.binding, if_neg (fun hm => ha (State.mem_withdrawals.mp hm))]
      · simpa [State.enterRecall] using hfreeq
      · simpa [State.enterRecall] using hholdq
      · exact (hgroupC g).trans (hgroupR g)
      · simp [State.enterRecall]
  · have hexec := exec_command noParams? stopDirectory h rfl (row := .stop) rfl
    refine ⟨fun hp => by rw [hexec, stopDirectory_stopped hp, State.complete_failed], fun hp => ?_⟩
    rw [stopDirectory_stops hp] at hexec
    have hbind : ∀ a, ((((({ s.stopTimers with phase := .stopped } : State).endListing .a).endListing .b)).replied .done
        [0x00]).binding a = (s.binding a).stopTimers := s.binding_stopTimers
    refine ⟨_, hexec, rfl, rfl, rfl, fun a => ?_⟩
    rw [hbind]
    refine ⟨fun h o r hb => by rw [hb]; rfl, fun h g r v p hb => by rw [hb]; rfl, fun o r hb => by rw [hb]; rfl,
      fun h g r v p c k hb => by rw [hb]; rfl, fun h v p c k hb => by rw [hb]; rfl, fun h v p hb => by rw [hb]; rfl,
      fun r hb => by rw [hb]; rfl, fun hb => by rw [hb]; rfl⟩

end Sys2Proof.Machine
end
